-- ==== Sys2Proof/Word.lean ====
section
/-!
DEFINITION. The word types of the Table Engine: ports and table words are 32 bits wide (rule R7), status and cause
codes 4 bits (rules R22, R70), and the encoding of a sample rate 64 bits (rule R76).
-/
namespace Sys2Proof

/-- A port or table word (rule R7). It is read as `u32` unless a rule says `s32` (rule R11). -/
abbrev Word := BitVec 32

/-- A response status RS or a cause FCAUSE (rules R22, R70). -/
abbrev Code := BitVec 4

/-- The 64-bit encoding of a binary64 sample rate (rules R14, R76). -/
abbrev Rate := BitVec 64

end Sys2Proof
end

