-- ==== Sys2Proof/Syntax.lean ====
section
/-!
DEFINITION. The commands of TE-1: the triple a requester sends (rule R70) and the instruction it decodes to, one
constructor per row of the opcode map (rule R72).
-/
namespace Sys2Proof

/-- A command: the three 32-bit words a requester sends (rule R70). -/
structure Command where
  cmd : Word
  a : Word
  b : Word
  deriving DecidableEq, Repr

/-- The instructions of TE-1 (rule R72). Each carries the words of both operand ports, the unused ones too, so that
rule R74 (an unused port is ignored) is something to prove and no bit of a command is lost. -/
inductive Instr where
  /-- `init(sampleRate)`: `a` holds bits 31:0 of the rate, `b` bits 63:32 (rule R100). -/
  | init (a b : Word)
  /-- `logsin(phase)`: `a` is the phase, `b` unused (rule R120). -/
  | logsin (a b : Word)
  /-- `log(x)`: `a` is x, `b` unused (rule R122). -/
  | log (a b : Word)
  /-- `exp(l)`: `a` is l, `b` unused (rule R142). -/
  | exp (a b : Word)
  /-- `output(input, envelope)`: `a` is the input, `b` the envelope (rule R145). -/
  | output (a b : Word)
  /-- `pitch(frequency)`: `a` is the frequency, `b` unused (rule R170). -/
  | pitch (a b : Word)
  /-- `scale(note)`: `a` is the note, `b` unused (rule R172). -/
  | scale (a b : Word)
  /-- `duration_param(value)`: `a` is the value, `b` unused (rule R200). -/
  | durp (a b : Word)
  /-- `level_param(value)`: `a` is the value, `b` unused (rule R203). -/
  | levp (a b : Word)
  /-- `pitch_param(value, scale)`: `a` is the value, `b` the scale (rule R206). -/
  | pitp (a b : Word)
  /-- The status read: both ports unused (rule R220). -/
  | rdstat (a b : Word)
  /-- A reserved encoding: the CMD word `cmd` matches no row of the map; both ports ignored (rules R79, R231). -/
  | reserved (cmd a b : Word)
  deriving DecidableEq, Repr

end Sys2Proof
end

