-- ==== Sys2Proof/Machine/Operands.lean ====
section
/-!
DEFINITION. How operands are read and the arithmetic the commands share: rules R10 to R12 (bit fields, signedness,
shifts, clamp), R14 and R76 (the binary64 sample rate), R51 and R77 (table indices).
-/
namespace Sys2Proof.Machine

/-- The two's-complement reading of a word (rule R11). -/
def s32 (w : Word) : Int := w.toInt

/-- The word `x mod 2^32` (rule R11). -/
def u32 (x : Int) : Word := BitVec.ofInt 32 x

/-- `asr(x, k)`: floor of `s32(x) / 2^k` (rule R12). The divisor is positive, so `/` on `Int` is the floor. -/
def asr (x : Word) (k : Nat) : Int := s32 x / (2 ^ k : Nat)

/-- `lsr32(v, s)`: floor of `v / 2^s` for s up to 31, and 0 beyond (rule R12). -/
def lsr32 (v : Word) (s : Nat) : Word :=
  if s ≤ 31 then BitVec.ofNat 32 (v.toNat / 2 ^ s) else 0#32

/-- `lsl32(v, s)`: `u32(v * 2^s)` for s up to 31, and 0 beyond (rule R12). -/
def lsl32 (v : Word) (s : Nat) : Word :=
  if s ≤ 31 then BitVec.ofNat 32 (v.toNat * 2 ^ s) else 0#32

/-- `clamp(x, lo, hi)` is `min(max(x, lo), hi)` (rule R12). -/
def clamp (x lo hi : Int) : Int := min (max x lo) hi

/-- The index `operand & 0x3FFF` of LST, EXT and LGT is in range, whatever the operand (rule R51). -/
theorem mask14_lt (a : Word) : (a &&& 0x3FFF#32).toNat < 16384 := by
  rw [BitVec.toNat_and]
  exact Nat.lt_of_le_of_lt Nat.and_le_right (by decide)

/-- The index `operand & 0xFFF` of NTT is in range, whatever the operand (rule R51). -/
theorem mask12_lt (a : Word) : (a &&& 0xFFF#32).toNat < 4096 := by
  rw [BitVec.toNat_and]
  exact Nat.lt_of_le_of_lt Nat.and_le_right (by decide)

/-- The index into LST, EXT or LGT: `operand & 0x3FFF` (rule R51). -/
def index14 (a : Word) : Fin 16384 := ⟨(a &&& 0x3FFF#32).toNat, mask14_lt a⟩

/-- The index into NTT: `operand & 0xFFF` (rule R51). -/
def index12 (a : Word) : Fin 4096 := ⟨(a &&& 0xFFF#32).toNat, mask12_lt a⟩

/-- `abs(s32(note))`, in 0 to 2^31 (rules R12, R172). -/
def noteMagnitude (note : Word) : Nat := (s32 note).natAbs

/-- The index into SCT: `abs(note) mod 12` (rule R51). -/
def semitone (note : Word) : Fin 12 := ⟨noteMagnitude note % 12, Nat.mod_lt _ (by decide)⟩

/-- The octave of a note: `abs(note) div 12` (rule R172). -/
def noteOctave (note : Word) : Nat := noteMagnitude note / 12

/-! ## The sample rate -/

/-- A binary64 datum (rule R14): a NaN, an infinity, or the number `mant * 2^exp`, negated if `neg`. -/
inductive F64 where
  | nan
  | infinity (neg : Bool)
  | finite (neg : Bool) (mant : Nat) (exp : Int)
  deriving DecidableEq, Repr

/-- `f64(w)`: bit 63 is the sign, bits 62:52 the biased exponent, bits 51:0 the fraction (rule R14). PRESUMED, log
entry 9: the meaning of the fields is IEEE 754's, which the spec takes from general knowledge too. -/
def f64 (w : Rate) : F64 :=
  let neg := w.msb
  let e := (w.extractLsb' 52 11).toNat
  let frac := (w.extractLsb' 0 52).toNat
  if e = 0x7FF then (if frac = 0 then .infinity neg else .nan)
  else if e = 0 then .finite neg frac (-1074)
  else .finite neg (2 ^ 52 + frac) ((e : Int) - 1075)

/-- `isFinite(x)` is false exactly for the infinities and the NaNs (rule R14). -/
def F64.isFinite : F64 → Bool
  | .nan => false
  | .infinity _ => false
  | .finite _ _ _ => true

/-- `x > 0`: the ordered comparison with +0.0, false for NaN, for -0.0 and for +0.0 (rule R14). -/
def F64.isPositive : F64 → Bool
  | .nan => false
  | .infinity neg => !neg
  | .finite neg mant _ => !neg && mant != 0

/-- The rate word `{B, A}`: B holds bits 63:32, A bits 31:0 (rule R76). -/
def rateWord (a b : Word) : Rate := b ++ a

/-- The check of INIT: `isFinite(rate) and rate > 0` (rule R100). -/
def validRate (w : Rate) : Bool := (f64 w).isFinite && (f64 w).isPositive

end Sys2Proof.Machine
end

