-- ==== Sys2Proof/Machine/Tables.lean ====
section
/-!
DEFINITION. The table set (rules R22, R50), the primitive `MemRead` (rule R13), the decompression EXP_CORE (rules R140,
R141), and the constraints every generated table set meets (rules R104 to R110).
-/
namespace Sys2Proof.Machine

/-- A table set: the five table address spaces, arrays of 32-bit words of fixed lengths indexed from 0 (rules R22, R34,
R50). -/
structure TableSet where
  lst : Vector Word 16384
  ext : Vector Word 16384
  lgt : Vector Word 16384
  ntt : Vector Word 4096
  sct : Vector Word 12
  deriving DecidableEq, Repr

/-- `MemRead(LST, i)` (rule R13). Every index of the five reads is in range by its type, as rule R51 says that no index
can fall outside its table. -/
def readLst (t : TableSet) (i : Fin 16384) : Word := t.lst.get i

/-- `MemRead(EXT, i)` (rule R13). -/
def readExt (t : TableSet) (i : Fin 16384) : Word := t.ext.get i

/-- `MemRead(LGT, i)` (rule R13). -/
def readLgt (t : TableSet) (i : Fin 16384) : Word := t.lgt.get i

/-- `MemRead(NTT, i)` (rule R13). -/
def readNtt (t : TableSet) (i : Fin 4096) : Word := t.ntt.get i

/-- `MemRead(SCT, i)` (rule R13). -/
def readSct (t : TableSet) (i : Fin 12) : Word := t.sct.get i

/-- `EXP_CORE(l)`: the entry at the low 14 bits, shifted right by the exponent clamped to 0 to 31 (rules R140, R141). -/
def expCore (t : TableSet) (l : Word) : Word :=
  lsr32 (readExt t (index14 l)) (clamp (asr l 14) 0 31).toNat

/-- The constraints on a table set built by `GEN`, for the output shift and the round-trip tolerance of the
configuration. -/
structure TableSet.Legal (t : TableSet) (outShift : Nat) (logTol : Fin 16384 → Option Nat) : Prop where
  /-- Rule R104: LST entries are non-negative as s32. -/
  lst_nonneg : ∀ i : Fin 16384, (readLst t i).toNat ≤ 0x7FFFFFFF
  /-- Rule R105: EXT is non-increasing. -/
  ext_antitone : ∀ (i : Nat) (h : i + 1 < 16384),
    (readExt t ⟨i + 1, h⟩).toNat ≤ (readExt t ⟨i, Nat.lt_of_succ_lt h⟩).toNat
  /-- Rule R106: EXT entries are at most `0x7FFFFFFF >> OUT_SHIFT`. -/
  ext_range : ∀ i : Fin 16384, (readExt t i).toNat ≤ 0x7FFFFFFF / 2 ^ outShift
  /-- Rule R107: the octave seam. -/
  ext_seam : (readExt t ⟨0, by decide⟩).toNat / 2 ≤ (readExt t ⟨0x3FFF, by decide⟩).toNat
  /-- Rule R108: the round trip through LGT is within the tolerance, where there is one. -/
  lgt_round_trip : ∀ (x : Fin 16384) (tol : Nat), logTol x = some tol →
    (((expCore t (readLgt t x)).toNat : Int) - (x.val : Int)).natAbs ≤ tol
  /-- Rule R109: NTT is bounded below by its first entry. -/
  ntt_first : ∀ i : Fin 4096, (readNtt t ⟨0, by decide⟩).toNat ≤ (readNtt t i).toNat
  /-- Rule R109: NTT is non-decreasing. -/
  ntt_monotone : ∀ (i : Nat) (h : i + 1 < 4096),
    (readNtt t ⟨i, Nat.lt_of_succ_lt h⟩).toNat ≤ (readNtt t ⟨i + 1, h⟩).toNat
  /-- Rule R109: NTT spans at most one octave. -/
  ntt_octave : (readNtt t ⟨4095, by decide⟩).toNat ≤ 2 * (readNtt t ⟨0, by decide⟩).toNat
  /-- Rule R110: the offset of semitone 0 is 0. -/
  sct_zero : readSct t ⟨0, by decide⟩ = 0#32

end Sys2Proof.Machine
end

