-- ==== Sys2Proof/Config.lean ====
section
/-!
DEFINITION. What an implementation fixes: the parameters of rule R8 with their constraints, and the constants of rule
R9. The parameters are ONE opaque record: nothing can be proved of them but the constraints the rules state, so a claim
about the model holds for every configuration of TE-1.
-/
namespace Sys2Proof

open Sys2Proof.Machine

/-- MIDDLE_C_HZ = 261.625565, an input of `GEN` (rule R9). -/
def Config.middleCHz : Rat := 261625565 / 1000000

/-- EG_MIN = -0x800000 (rules R9, R27). -/
def Config.egMin : Int := -0x800000

/-- EG_MAX = 0x7FFFFF (rules R9, R27). -/
def Config.egMax : Int := 0x7FFFFF

/-- The named parameters of rule R8 and their constraints. -/
structure Params where
  /-- `GEN`: the table contents, a function of MIDDLE_C_HZ and the rate alone (rules R8, R103). The value at a rate that
  is not valid is constrained by nothing and read by nothing. -/
  gen : Rat → Rate → TableSet
  /-- `OUT_SHIFT` (rule R146; the spec's default is 8, and no rule fixes it). -/
  outShift : Nat
  /-- `DUR_FN` (rule R201). -/
  durFn : Word → Word
  /-- `LEV_FN` (rule R204). -/
  levFn : Word → Word
  /-- `PIT_FN` (rule R207). -/
  pitFn : Word → Word → Word
  /-- `LOG_TOL`: a tolerance, or `none` for "not covered" (rule R108). -/
  logTol : Fin 16384 → Option Nat
  /-- `EG_MID`: read by no rule (rule R27). -/
  egMid : Word
  /-- `LAT_INIT` in cycles: read by no rule of the model (rule R270). -/
  latInit : Nat
  /-- `LAT_Q` in cycles: read by no rule of the model (rule R270). -/
  latQ : Nat
  /-- `N_REQ` (rule R55). -/
  nReq : Nat
  /-- Rules R103 to R110: `GEN` gives a legal table set for every valid rate. -/
  gen_legal : ∀ rate, validRate rate = true → (gen Config.middleCHz rate).Legal outShift logTol
  /-- Rule R146: OUT_SHIFT is in 0 to 8. -/
  outShift_le : outShift ≤ 8
  /-- Rule R201: non-decreasing on 0 to 99. -/
  durFn_monotone : ∀ v w : Nat, v ≤ w → w ≤ 99 →
    (durFn (BitVec.ofNat 32 v)).toNat ≤ (durFn (BitVec.ofNat 32 w)).toNat
  /-- Rule R204: above 0 and at most 0x100000 on 0 to 99. -/
  levFn_range : ∀ v : Nat, v ≤ 99 →
    0 < (levFn (BitVec.ofNat 32 v)).toNat ∧ (levFn (BitVec.ofNat 32 v)).toNat ≤ 0x100000
  /-- Rule R204: non-decreasing on 0 to 99. -/
  levFn_monotone : ∀ v w : Nat, v ≤ w → w ≤ 99 →
    (levFn (BitVec.ofNat 32 v)).toNat ≤ (levFn (BitVec.ofNat 32 w)).toNat
  /-- Rule R207: non-decreasing in the value on 0 to 99, for every fixed scale. -/
  pitFn_monotone : ∀ (scale : Word) (v w : Nat), v ≤ w → w ≤ 99 →
    (pitFn (BitVec.ofNat 32 v) scale).toNat ≤ (pitFn (BitVec.ofNat 32 w) scale).toNat
  /-- Rule R8: latencies are positive. -/
  latInit_pos : 0 < latInit
  /-- Rule R8: latencies are positive. -/
  latQ_pos : 0 < latQ
  /-- Rule R55: there is at least one requester. -/
  nReq_pos : 0 < nReq

/-- The table set of zeros. It only shows that the constraints can be met. -/
def TableSet.zeros : TableSet :=
  ⟨.replicate _ 0#32, .replicate _ 0#32, .replicate _ 0#32, .replicate _ 0#32, .replicate _ 0#32⟩

/-- The table set of zeros is legal when no operand has a round-trip tolerance. -/
theorem TableSet.zeros_legal (outShift : Nat) : TableSet.zeros.Legal outShift (fun _ => none) := by
  constructor <;> simp [TableSet.zeros, readLst, readExt, readNtt, readSct]

/-- A configuration: the evidence that the constraints of `Params` can be met together. No rule and no definition of the
machine uses its values. -/
def Params.possible : Params where
  gen := fun _ _ => TableSet.zeros
  outShift := 8
  durFn := fun _ => 0#32
  levFn := fun _ => 1#32
  pitFn := fun _ _ => 0#32
  logTol := fun _ => none
  egMid := 0#32
  latInit := 1
  latQ := 1
  nReq := 1
  gen_legal := fun _ _ => TableSet.zeros_legal 8
  outShift_le := by decide
  durFn_monotone := fun _ _ _ _ => Nat.le_refl _
  levFn_range := fun _ _ => by decide
  levFn_monotone := fun _ _ _ _ => Nat.le_refl _
  pitFn_monotone := fun _ _ _ _ _ => Nat.le_refl _
  latInit_pos := by decide
  latQ_pos := by decide
  nReq_pos := by decide

/-- An unknown record of parameters, of a type known to have one. It has no body: nothing can evaluate it. -/
opaque Config.unknown [Inhabited Params] : Params

/-- The configuration of this TE: unknown parameters that meet the constraints (rule R8; log entry 1). -/
def Config.params : Params := @Config.unknown ⟨Params.possible⟩

/-- `GEN(rate)` (rules R8, R103). -/
def Config.gen (rate : Rate) : TableSet := Config.params.gen Config.middleCHz rate

/-- `OUT_SHIFT` (rules R8, R146). -/
def Config.outShift : Nat := Config.params.outShift

/-- `DUR_FN` (rules R8, R201). -/
def Config.durFn (value : Word) : Word := Config.params.durFn value

/-- `LEV_FN` (rules R8, R204). -/
def Config.levFn (value : Word) : Word := Config.params.levFn value

/-- `PIT_FN` (rules R8, R207). -/
def Config.pitFn (value scale : Word) : Word := Config.params.pitFn value scale

/-- `LOG_TOL` (rules R8, R108). -/
def Config.logTol (x : Fin 16384) : Option Nat := Config.params.logTol x

/-- `EG_MID` (rules R8, R27). -/
def Config.egMid : Word := Config.params.egMid

/-- `N_REQ` (rules R8, R55). -/
def Config.nReq : Nat := Config.params.nReq

/-- There is at least one requester (rule R55). -/
theorem Config.nReq_pos : 0 < Config.nReq := Config.params.nReq_pos

end Sys2Proof
end

