-- ==== Sys2Proof/Machine/State.lean ====
section
/-!
DEFINITION. The state of one TE instance: what rule R22 lists, what the interface rules imply (rules R20, R32, R82,
R261), and the input schedule through which the outside world acts (log entry 3). Two instances are two states: they
share nothing (rule R33).
-/
namespace Sys2Proof.Machine

/-- A requester port: there are N_REQ of them (rule R55). No command can see which port it came from (rule R249). -/
abbrev Port := Fin Config.nReq

/-- A response: the result word R and the status RS (rule R70). -/
structure Response where
  r : Word
  rs : Code
  deriving DecidableEq, Repr

/-- A command accepted from a port (rule R82). -/
structure Request where
  port : Port
  command : Command
  deriving DecidableEq, Repr

/-- A response that is complete and waits at a port for `rsp_ready` (rule R82). -/
structure Answer where
  port : Port
  response : Response
  deriving DecidableEq, Repr

/-- What the outside world does at the ports (rule R82). -/
inductive Event where
  /-- The requester at `port` holds `cmd_valid` with the command until it is accepted. -/
  | command (port : Port) (command : Command)
  /-- A clock edge with `rsp_ready` set at `port`: its oldest waiting response is delivered. -/
  | take (port : Port)
  /-- A clock edge on which nothing arrives. -/
  | clock
  /-- `rst` is asserted (rule R260). -/
  | reset
  deriving DecidableEq, Repr

/-- The state of one TE instance. -/
structure State where
  /-- TABLES: absent, or the table set of the last successful INIT (rule R22). -/
  tables : Option TableSet
  /-- FAULT: a fault was recorded since reset (rule R24). -/
  fault : Bool
  /-- FCAUSE: the cause of the first fault since reset (rule R25). -/
  fcause : Code
  /-- BUSY: an accepted INIT has not yet built its table set (rule R29). -/
  busy : Bool
  /-- The command accepted and not yet complete (rules R82, R261). -/
  inflight : Option Request
  /-- R and RS of the command that executes now; nothing between commands (rules R20, R32). -/
  rsp : Option Response
  /-- The responses waiting for delivery, oldest first (rules R32, R82). -/
  answers : List Answer
  /-- The model's own: what the outside world does next, oldest first (rule R55; log entry 3). -/
  inputs : List Event
  deriving DecidableEq, Repr

/-- Why the machine stops. It never does: every fault of the TE is recorded and answered, and the next command is
accepted as usual (rule R237), so there is no constructor and nothing raises one. Safe: every command has a next state. -/
inductive Fault
  deriving DecidableEq, Repr

/-- Why a command has no meaning. -/
inductive Refusal where
  /-- Raised by an arm of `exec` for an instruction without a meaning. No arm raises it: every row of the opcode map is
  modelled. It would be safe, since a refused command has no next state. -/
  | notModelled (mnemonic : String)
  deriving DecidableEq, Repr

/-- The state after reset (rules R32, R260): no table set, no fault recorded, not busy, no command in flight, no response
pending. The input schedule is empty (log entry 3). -/
def State.reset : State where
  tables := none
  fault := false
  fcause := 0#4
  busy := false
  inflight := none
  rsp := none
  answers := []
  inputs := []

end Sys2Proof.Machine
end

