-- ==== Sys2Proof/Machine/Flags.lean ====
section
/-!
DEFINITION. The status bits: READY (rule R23), the STATUS word (rule R26), and the codes of faults and responses (rules
R78, R230). The TE has no other flag, and no arithmetic sets one (rule R30).
-/
namespace Sys2Proof.Machine

/-- READY: a table set is present (rule R23). -/
def State.ready (s : State) : Bool := s.tables.isSome

/-- The layout of STATUS: FCAUSE in bits 7:4, FAULT in bit 1, READY in bit 0, every other bit 0 (rule R26). -/
def packStatus (fcause : Code) (fault ready : Bool) : Word :=
  0#24 ++ fcause ++ 0#2 ++ BitVec.ofBool fault ++ BitVec.ofBool ready

/-- STATUS, computed from the state (rule R26). -/
def State.status (s : State) : Word := packStatus s.fcause s.fault s.ready

/-- The three fault causes (rule R230). -/
inductive Cause where
  | illegalCommand
  | notInitialised
  | badRate
  deriving DecidableEq, Repr

/-- The code of a cause, in FCAUSE and in RS (rules R78, R230). -/
def Cause.code : Cause → Code
  | .illegalCommand => 1#4
  | .notInitialised => 2#4
  | .badRate => 3#4

/-- RS = OK (rule R78). -/
def rsOk : Code := 0#4

end Sys2Proof.Machine
end

