-- ==== Sys2Proof/Machine/Ops.lean ====
section
/-!
DEFINITION. The operations the meanings share: writing the response (rule R13), taking a fault (rule R236), and the
READY check of the table reads (rule R233). There is no return from a fault (rule R238).
-/
namespace Sys2Proof.Machine

/-- The result of running one command. -/
abbrev Result := Host.Outcome State Fault Refusal

/-- `R <- v; RS <- c` (rule R13). -/
def respond (v : Word) (c : Code) (s : State) : State := { s with rsp := some ⟨v, c⟩ }

/-- The command completes: `R <- v; RS <- OK`. -/
def complete (v : Word) (s : State) : Result := .next (respond v rsOk s)

/-- The fault procedure (rule R236): FCAUSE takes the cause of the first fault since reset, FAULT is set, R is 0 and RS
the cause. Nothing else changes. -/
def raiseFault (cause : Cause) (s : State) : State :=
  { s with
    fcause := if s.fault then s.fcause else cause.code
    fault := true
    rsp := some ⟨0#32, cause.code⟩ }

/-- A command that reads a table: it faults NOT_INITIALISED when READY = 0, else answers the value computed from the
table set (rules R56, R233). -/
def query (value : TableSet → Word) (s : State) : Result :=
  match s.tables with
  | none => .next (raiseFault .notInitialised s)
  | some t => complete (value t) s

end Sys2Proof.Machine
end

