-- ==== Sys2Proof/Machine/Decompress.lean ====
section
/-!
DEFINITION. EXP and OUTPUT, exponential decompression (rules R142, R144 to R148). EXP_CORE stands in Tables.lean.
-/
namespace Sys2Proof.Machine

/-- `ATTEN(env)`: the non-negative attenuation of an envelope level, clamped outside EG_MIN to EG_MAX (rule R144). -/
def atten (env : Word) : Int :=
  if s32 env < Config.egMin then -Config.egMin - Config.egMin
  else if s32 env > Config.egMax then 0
  else -Config.egMin - s32 env

/-- The log-domain sum of OUTPUT: `s32(A) + (att >> 6)`, wrapped to 32 bits (rules R145, R148). -/
def outputSum (input env : Word) : Word := u32 (s32 input + atten env / 64)

/-- The value OUTPUT returns: the decompressed sum in the high bits (rules R145, R146). -/
def outputValue (t : TableSet) (input env : Word) : Word :=
  lsl32 (expCore t (outputSum input env)) Config.outShift

/-- EXP (rule R142). -/
def execExp (a _b : Word) (s : State) : Result := query (fun t => expCore t a) s

/-- OUTPUT (rule R145). -/
def execOutput (a b : Word) (s : State) : Result := query (fun t => outputValue t a b) s

end Sys2Proof.Machine
end

