-- ==== Sys2Proof/Machine/Generator.lean ====
section
/-!
DEFINITION. INIT, the table generator (rules R100 to R102).
-/
namespace Sys2Proof.Machine

/-- The success of INIT: the whole table set is replaced at once by `GEN(rate)`, and BUSY is 0 at the end (rules R100,
R101, R112). The BUSY = 1 of rule R100 is set when the command is accepted (`accept`). -/
def installTables (rate : Rate) (s : State) : State :=
  { s with tables := some (Config.gen rate), busy := false }

/-- The loss of the tables on a bad rate (rule R102). -/
def dropTables (s : State) : State := { s with tables := none }

/-- INIT: a finite rate above 0 builds the tables; any other drops them and faults BAD_RATE (rules R100, R102, R234). -/
def execInit (a b : Word) (s : State) : Result :=
  if validRate (rateWord a b) then complete 0#32 (installTables (rateWord a b) s)
  else .next (raiseFault .badRate (dropTables s))

end Sys2Proof.Machine
end

