-- ==== Sys2Proof/Machine/ParamDecode.lean ====
section
/-!
DEFINITION. DURP, LEVP and PITP, the parameter decoders: pure functions of their operands and the configuration, legal in
every state (rules R200 to R211).
-/
namespace Sys2Proof.Machine

/-- DURP (rule R200). -/
def execDurp (a _b : Word) (s : State) : Result := complete (Config.durFn a) s

/-- LEVP (rule R203). -/
def execLevp (a _b : Word) (s : State) : Result := complete (Config.levFn a) s

/-- PITP (rule R206). -/
def execPitp (a b : Word) (s : State) : Result := complete (Config.pitFn a b) s

end Sys2Proof.Machine
end

