-- ==== Sys2Proof/Machine/PitchScale.lean ====
section
/-!
DEFINITION. PITCH and SCALE, the pitch and semitone scaler (rules R170, R172).
-/
namespace Sys2Proof.Machine

/-- The value PITCH returns: the note ratio shifted left by a non-negative octave, right by the magnitude of a negative
one (rule R170). -/
def pitchValue (t : TableSet) (f : Word) : Word :=
  let n := readNtt t (index12 f)
  let o := asr f 12
  if o ≥ 0 then lsl32 n o.toNat else lsr32 n (-o).toNat

/-- The value SCALE returns: the split is on the magnitude, and the sum is negated for a negative note (rule R172;
90_conflicts.md C4). -/
def scaleValue (t : TableSet) (note : Word) : Word :=
  let r := u32 ((readSct t (semitone note)).toNat + 4096 * noteOctave note : Nat)
  if s32 note < 0 then u32 (-(r.toNat : Int)) else r

/-- PITCH (rule R170). -/
def execPitch (a _b : Word) (s : State) : Result := query (fun t => pitchValue t a) s

/-- SCALE (rule R172). -/
def execScale (a _b : Word) (s : State) : Result := query (fun t => scaleValue t a) s

end Sys2Proof.Machine
end

