-- ==== Sys2Proof/Machine/StatusRead.lean ====
section
/-!
DEFINITION. RDSTAT, the status read (rule R220), and the reserved encodings (rule R231).
-/
namespace Sys2Proof.Machine

/-- RDSTAT: STATUS is read and nothing is cleared (rules R220, R221). -/
def execRdstat (_a _b : Word) (s : State) : Result := complete s.status s

/-- A reserved encoding: the fault ILLEGAL_COMMAND and no other effect (rules R79, R231). -/
def execReserved (_cmd _a _b : Word) (s : State) : Result := .next (raiseFault .illegalCommand s)

end Sys2Proof.Machine
end

