-- ==== Sys2Proof/Machine/TableRead.lean ====
section
/-!
DEFINITION. LOGSIN and LOG, the direct table reads (rules R120 to R122).
-/
namespace Sys2Proof.Machine

/-- LOGSIN: the entry of LST at the masked phase; no sign and no quadrant logic (rules R120, R121). -/
def execLogsin (a _b : Word) (s : State) : Result := query (fun t => readLst t (index14 a)) s

/-- LOG: the entry of LGT at the masked operand (rule R122). -/
def execLog (a _b : Word) (s : State) : Result := query (fun t => readLgt t (index14 a)) s

end Sys2Proof.Machine
end

