-- ==== Sys2Proof/Machine/Dispatch.lean ====
section
/-!
DEFINITION. The dispatch: one arm per row of the opcode map (rule R72), each one call of its meaning.
-/
namespace Sys2Proof.Machine

/-- The effect of one command at its place in the total order S (rule R56). -/
def exec (i : Instr) (s : State) : Host.Outcome State Fault Refusal :=
  match i with
  | .init a b => Sys2Proof.Machine.execInit a b s
  | .logsin a b => Sys2Proof.Machine.execLogsin a b s
  | .log a b => Sys2Proof.Machine.execLog a b s
  | .exp a b => Sys2Proof.Machine.execExp a b s
  | .output a b => Sys2Proof.Machine.execOutput a b s
  | .pitch a b => Sys2Proof.Machine.execPitch a b s
  | .scale a b => Sys2Proof.Machine.execScale a b s
  | .durp a b => Sys2Proof.Machine.execDurp a b s
  | .levp a b => Sys2Proof.Machine.execLevp a b s
  | .pitp a b => Sys2Proof.Machine.execPitp a b s
  | .rdstat a b => Sys2Proof.Machine.execRdstat a b s
  | .reserved cmd a b => Sys2Proof.Machine.execReserved cmd a b s

end Sys2Proof.Machine
end

