-- ==== Sys2Proof/WellFormed.lean ====
section
/-!
DEFINITION. Which instructions a command can stand for. The only check is on the reserved row: its CMD word must be a
reserved encoding (rule R79). Every value of an operand port is legal (rules R74, R232).
-/
namespace Sys2Proof

/-- The reserved CMD words: any of bits 31:4 set, or OP = 0x0 or 0xC to 0xF (rule R79). -/
def reservedWord (cmd : Word) : Bool :=
  cmd.extractLsb' 4 28 != 0#28 || cmd.extractLsb' 0 4 == 0x0#4 || 0xC#4 ≤ cmd.extractLsb' 0 4

/-- The instruction is one that some command stands for. -/
def Instr.wf : Instr → Bool
  | .init _ _ => true
  | .logsin _ _ => true
  | .log _ _ => true
  | .exp _ _ => true
  | .output _ _ => true
  | .pitch _ _ => true
  | .scale _ _ => true
  | .durp _ _ => true
  | .levp _ _ => true
  | .pitp _ _ => true
  | .rdstat _ _ => true
  | .reserved cmd _ _ => reservedWord cmd

end Sys2Proof
end

