-- ==== Sys2Proof/Decode.lean ====
section
/-!
DEFINITION. The decoder of rule R73, total on every CMD word, and the encoder written from the opcode map of rule R72.
A word that the map does not assign is not refused: it decodes to the reserved row, whose meaning is the fault
ILLEGAL_COMMAND (rules R79, R231).
-/
namespace Sys2Proof

/-- The decode function of rule R73. It looks at CMD alone; A and B are carried along whole (rule R75). -/
def decode (c : Command) : Instr :=
  if c.cmd.extractLsb' 4 28 = 0#28 then
    match (c.cmd.extractLsb' 0 4).toNat with
    | 0x1 => .init c.a c.b
    | 0x2 => .logsin c.a c.b
    | 0x3 => .log c.a c.b
    | 0x4 => .exp c.a c.b
    | 0x5 => .output c.a c.b
    | 0x6 => .pitch c.a c.b
    | 0x7 => .scale c.a c.b
    | 0x8 => .durp c.a c.b
    | 0x9 => .levp c.a c.b
    | 0xA => .pitp c.a c.b
    | 0xB => .rdstat c.a c.b
    | _ => .reserved c.cmd c.a c.b
  else .reserved c.cmd c.a c.b

/-- The three words of an instruction, from the CMD column of rule R72. -/
def encode : Instr → Command
  | .init a b => ⟨0x00000001#32, a, b⟩
  | .logsin a b => ⟨0x00000002#32, a, b⟩
  | .log a b => ⟨0x00000003#32, a, b⟩
  | .exp a b => ⟨0x00000004#32, a, b⟩
  | .output a b => ⟨0x00000005#32, a, b⟩
  | .pitch a b => ⟨0x00000006#32, a, b⟩
  | .scale a b => ⟨0x00000007#32, a, b⟩
  | .durp a b => ⟨0x00000008#32, a, b⟩
  | .levp a b => ⟨0x00000009#32, a, b⟩
  | .pitp a b => ⟨0x0000000A#32, a, b⟩
  | .rdstat a b => ⟨0x0000000B#32, a, b⟩
  | .reserved cmd a b => ⟨cmd, a, b⟩

/-- The command whose bits are the low `nbits` bits of `w`, every higher bit 0: CMD is the first word (bits 31:0), A
the second (bits 63:32), B the third (bits 95:64). DESIGN CHOICE, log entry 16: the spec orders the words (CMD, A, B)
and gives them no joint numbering. -/
def commandOfBits (nbits w : Nat) : Command :=
  let v := w % 2 ^ nbits
  ⟨BitVec.ofNat 32 v, BitVec.ofNat 32 (v / 2 ^ 32), BitVec.ofNat 32 (v / 2 ^ 64)⟩

/-- The instruction the decoder reads from the bits `w` of a command. The decoder refuses no word (rule R73). -/
def decodeTableWord (nbits w : Nat) : Option Instr :=
  some (decode (commandOfBits nbits w))

end Sys2Proof
end

