-- ==== Sys2Proof/Machine/Interface.lean ====
section
/-!
DEFINITION. The ports of the block (rule R82): accepting a command, posting and delivering its response, the INIT
interlock (rule R265), and reset (rules R260, R261).
-/
namespace Sys2Proof.Machine

/-- The command is an INIT that will build a table set, so BUSY is 1 from its acceptance on (rules R29, R100). DEDUCED,
log entry 5: an INIT with a bad rate faults before rule R100's `BUSY <- 1`. -/
def buildsTables (c : Command) : Bool :=
  match decode c with
  | .init a b => validRate (rateWord a b)
  | _ => false

/-- `cmd_ready`, the same on every port: 0 while BUSY = 1 (rules R82, R265). It is also 0 while a command is in flight
(DESIGN CHOICE, log entry 4). -/
def State.cmdReady (s : State) : Bool := !s.busy && s.inflight.isNone

/-- `rsp_valid` at a port: a response waits there (rule R82). -/
def State.rspValid (s : State) (p : Port) : Bool := s.answers.any (fun x => x.port = p)

/-- The responses waiting at a port, oldest first. The first one stands on the port's R and RS (rule R82). -/
def State.answersAt (s : State) (p : Port) : List Response :=
  (s.answers.filter (fun x => x.port = p)).map Answer.response

/-- A command is accepted: it goes in flight, and BUSY is set if it is an INIT that builds tables (rules R29, R82). -/
def accept (p : Port) (c : Command) (s : State) : State :=
  { s with inflight := some ⟨p, c⟩, busy := buildsTables c }

/-- The command in flight is complete: its response joins the responses of its port, and the ports R and RS hold nothing
any more (rules R20, R82). -/
def post (p : Port) (s : State) : State :=
  { s with
    inflight := none
    rsp := none
    answers := s.answers ++ (s.rsp.map (fun x => (⟨p, x⟩ : Answer))).toList }

/-- The oldest response waiting at the port is delivered; where none waits, nothing happens (rule R82; log entry 6). -/
def deliver (p : Port) (s : State) : State :=
  { s with answers := s.answers.eraseP (fun x => x.port = p) }

/-- `rst` is asserted: the state of rule R32. A command in flight and every response not yet delivered are lost; what the
requesters had not yet issued is unaffected (rules R260, R261). -/
def assertReset (s : State) : State := { State.reset with inputs := s.inputs }

/-- The port of the first requester (rule R55: there is at least one). -/
def firstPort : Port := ⟨0, Config.nReq_pos⟩

/-- The state in which the command has just been accepted from the first port and the next edge brings nothing new, so
that the next step executes it (log entry 8). -/
def placeCommand (c : Command) (s : State) : State :=
  { s with
    inflight := some ⟨firstPort, c⟩
    busy := buildsTables c
    inputs := .clock :: s.inputs }

end Sys2Proof.Machine
end

