-- ==== Sys2Proof/Machine/Sequencer.lean ====
section
/-!
DEFINITION. What the block does between two inputs. One step either executes the command in flight, or accepts a command,
or delivers a response, or resets. Commands never overlap, and their order of acceptance is the order S of rule R56.
-/
namespace Sys2Proof.Machine

/-- The command in flight executes, atomically, and its response is posted (rules R56, R57). Idle, the block holds its
state (rule R251). -/
def work (s : State) : Result :=
  match s.inflight with
  | none => .next s
  | some q =>
    match exec (decode q.command) s with
    | .next t => .next (post q.port t)
    | .fault f => .fault f
    | .refused f => .refused f

/-- One step. A command offered while the block is not ready stays offered and the block works on (rules R82, R265);
reset wins over a command in flight (rules R235, R261). -/
def react (s : State) : Result :=
  match s.inputs with
  | [] => work s
  | .clock :: rest => work { s with inputs := rest }
  | .command p c :: rest => if s.cmdReady then .next (accept p c { s with inputs := rest }) else work s
  | .take p :: rest => .next (deliver p { s with inputs := rest })
  | .reset :: rest => .next (assertReset { s with inputs := rest })

end Sys2Proof.Machine
end

