-- ==== Sys2Proof/Machine/Step.lean ====
section
/-!
DEFINITION. The step of the machine, and where the next command is placed. The TE has no program counter and fetches
nothing (rule R21): requesters push commands into it.
-/
namespace Sys2Proof.Machine

/-- One step of the TE. -/
def step (s : State) : Host.Outcome State Fault Refusal := react s

/-- The state `s` with the command of these bits accepted, so that the very next step executes it (log entry 8). -/
def State.withFetchWord (s : State) (nbits w : Nat) : State := placeCommand (commandOfBits nbits w) s

end Sys2Proof.Machine
end

