-- ==== Sys2Proof/Machine/Assembler.lean ====
section
/-!
DEFINITION. The requester's assembler notation (rules R83, R84), as a syntax tree: how a line becomes the three words of a
command. The TE never sees a line, only the resolved words. The spelling of a line as characters is not modelled (log
entry 17).
-/
namespace Sys2Proof.Machine

/-- A real literal: `digits / 10^places`, negated if `neg` (rule R83). -/
structure RealLiteral where
  neg : Bool
  digits : Nat
  places : Nat
  deriving DecidableEq, Repr

/-- An operand: an integer literal, which may be negative, or `%name` (rule R83). -/
inductive AsmOperand where
  | literal (value : Int)
  | name (name : String)
  deriving DecidableEq, Repr

/-- The command of a line, with the operands its mnemonic takes (rules R72, R83). -/
inductive AsmCommand where
  | init (rate : RealLiteral)
  | logsin (a : AsmOperand)
  | log (a : AsmOperand)
  | exp (a : AsmOperand)
  | output (a b : AsmOperand)
  | pitch (a : AsmOperand)
  | scale (a : AsmOperand)
  | durp (a : AsmOperand)
  | levp (a : AsmOperand)
  | pitp (a b : AsmOperand)
  | rdstat
  deriving DecidableEq, Repr

/-- A line: `[%dst =] mnemonic [opA [, opB]]` (rule R83). -/
structure AsmLine where
  dst : Option String
  command : AsmCommand
  deriving DecidableEq, Repr

/-- The responses the assembler has recorded under a name, latest first (rule R83). -/
abbrev AsmNames := List (String × Response)

/-- `n / d` rounded to the nearest natural number, ties to even. PRESUMED, log entry 17. -/
def roundHalfEven (n d : Nat) : Nat :=
  let q := n / d
  let r := n % d
  if 2 * r < d then q else if d < 2 * r then q + 1 else if q % 2 = 0 then q else q + 1

/-- The largest e with `2^e ≤ n / d`, for positive n and d. -/
def floorLog2 (n d : Nat) : Int :=
  let e : Int := (Nat.log2 n : Int) - (Nat.log2 d : Int)
  if (if 0 ≤ e then d * 2 ^ e.toNat ≤ n else d ≤ n * 2 ^ (-e).toNat) then e else e - 1

/-- The low 63 bits of the binary64 encoding of `n / d`, an overflow giving infinity (rule R14). -/
def binary64Magnitude (n d : Nat) : Nat :=
  if n = 0 then 0
  else
    let e := max (floorLog2 n d) (-1022)
    let k := e - 52
    let m := if 0 ≤ k then roundHalfEven n (d * 2 ^ k.toNat) else roundHalfEven (n * 2 ^ (-k).toNat) d
    min ((e + 1022).toNat * 2 ^ 52 + m) (0x7FF * 2 ^ 52)

/-- The binary64 encoding of a literal (rules R14, R83). -/
def RealLiteral.encode (x : RealLiteral) : Rate :=
  BitVec.ofNat 64 ((if x.neg then 2 ^ 63 else 0) + binary64Magnitude x.digits (10 ^ x.places))

/-- The word of an operand: `u32(value)`, or the response word saved under the name; nothing for a name that no response
has defined (rules R83, R84). -/
def AsmOperand.word (names : AsmNames) : AsmOperand → Option Word
  | .literal v => some (u32 v)
  | .name n => (names.lookup n).map Response.r

/-- The operands of a line's command, opA first (rule R83). `init` takes a real literal and no such operand. -/
def AsmCommand.operands : AsmCommand → List AsmOperand
  | .init _ => []
  | .logsin a => [a]
  | .log a => [a]
  | .exp a => [a]
  | .output a b => [a, b]
  | .pitch a => [a]
  | .scale a => [a]
  | .durp a => [a]
  | .levp a => [a]
  | .pitp a b => [a, b]
  | .rdstat => []

/-- The command a line issues. `none` is an error of the assembler, and the line is never issued (rule R84). An unused
port gets 0 (rule R83). -/
def AsmCommand.assemble (names : AsmNames) : AsmCommand → Option Command
  | .init rate =>
    let w := rate.encode
    some (encode (.init (w.extractLsb' 0 32) (w.extractLsb' 32 32)))
  | .logsin a => do return encode (.logsin (← a.word names) 0#32)
  | .log a => do return encode (.log (← a.word names) 0#32)
  | .exp a => do return encode (.exp (← a.word names) 0#32)
  | .output a b => do return encode (.output (← a.word names) (← b.word names))
  | .pitch a => do return encode (.pitch (← a.word names) 0#32)
  | .scale a => do return encode (.scale (← a.word names) 0#32)
  | .durp a => do return encode (.durp (← a.word names) 0#32)
  | .levp a => do return encode (.levp (← a.word names) 0#32)
  | .pitp a b => do return encode (.pitp (← a.word names) (← b.word names))
  | .rdstat => some (encode (.rdstat 0#32 0#32))

/-- The names after a line's response has come: `%dst` names the response, R and RS (rule R83). -/
def AsmLine.record (line : AsmLine) (response : Response) (names : AsmNames) : AsmNames :=
  match line.dst with
  | none => names
  | some n => (n, response) :: names

end Sys2Proof.Machine
end

