-- ==== Sys2Proof/Safety.lean ====
section
/-!
DEFINITION. The terms in which claims are stated: a run without a recorded fault (rule R239), the invariant that reset
establishes and every step keeps, and the atomic order S of rule R56.
-/
namespace Sys2Proof.Machine

/-- No fault was recorded since reset: the premise of a claim about a run (rule R239). -/
def State.clean (s : State) : Prop := s.fault = false

/-- What is true of every state the TE can be in. -/
structure State.Inv (s : State) : Prop where
  /-- Whenever FAULT = 0, FCAUSE = 0 (rule R25). -/
  cause_when_clean : s.fault = false → s.fcause = 0#4
  /-- A recorded fault has one of the three causes (rules R26, R230). -/
  cause_when_faulted : s.fault = true → s.fcause = 1#4 ∨ s.fcause = 2#4 ∨ s.fcause = 3#4
  /-- A table set that is present was built by `GEN` from a valid rate (rules R23, R28, R101). -/
  tables_generated : ∀ t, s.tables = some t → ∃ rate, validRate rate = true ∧ t = Config.gen rate
  /-- BUSY = 1 exactly while an INIT that builds tables is in flight (rule R29; log entry 5). -/
  busy_iff : s.busy = true ↔ ∃ q, s.inflight = some q ∧ buildsTables q.command = true
  /-- R and RS hold no value between commands (rule R20). -/
  ports_empty : s.rsp = none
  /-- A waiting response has one of the four codes, and R = 0 if it reports a fault (rules R78, R236). -/
  answers_coded : ∀ x ∈ s.answers, x.response.rs.toNat ≤ 3 ∧ (x.response.rs ≠ rsOk → x.response.r = 0#32)

/-- `s` with the response `v` / OK and nothing else changed. -/
def answering (v : Word) (s : State) : State := { s with rsp := some ⟨v, 0x0#4⟩ }

/-- `s` after a fault with this code, and nothing else changed: rule R236 written out. -/
def afterFault (code : Code) (s : State) : State :=
  { s with
    fcause := if s.fault = true then s.fcause else code
    fault := true
    rsp := some ⟨0#32, code⟩ }

/-- The decompression of rule R140 as a division of natural numbers: the entry at the remainder by 16384, divided by 2 to
the quotient by 16384, at most 31; a word of 2^31 or more is a negative l and divides by 1. -/
def decompressed (t : TableSet) (l : Word) : Nat :=
  (t.ext.get ⟨l.toNat % 16384, Nat.mod_lt _ (by decide)⟩).toNat /
    2 ^ (if l.toNat < 2 ^ 31 then min (l.toNat / 16384) 31 else 0)

/-- The attenuation of rule R144 in numbers. -/
def attenuation (env : Int) : Int :=
  if env < -8388608 then 16777216 else if 8388607 < env then 0 else 8388608 - env

/-- The block has nothing in flight. -/
def State.idle (s : State) : Prop := s.inflight = none ∧ s.busy = false ∧ s.rsp = none

/-- The commands executed one after the other, each atomically and each answered at its port: one total order S (rule
R56). It knows neither acceptance nor BUSY. -/
def runAtomic : List Request → State → State
  | [], s => s
  | q :: rest, s =>
    match exec (decode q.command) s with
    | .next t => runAtomic rest (post q.port t)
    | .fault _ => s
    | .refused _ => s

/-- The input schedule that offers these commands in this order. -/
def offers (requests : List Request) : List Event := requests.map (fun q => .command q.port q.command)

/-- The command is an INIT, whatever its rate. -/
def isInit (c : Command) : Bool :=
  match decode c with
  | .init _ _ => true
  | _ => false

/-- No INIT is in flight, and the next `k` inputs hold no INIT and no reset: the tables are at rest for `k` steps (rule
R28). What is scheduled later makes no difference. -/
def State.tablesAtRest (s : State) (k : Nat) : Prop :=
  (∀ q, s.inflight = some q → isInit q.command = false) ∧
    ∀ e ∈ s.inputs.take k, e ≠ .reset ∧ ∀ p c, e = .command p c → isInit c = false

/-- The instruction reads a table (rule R23). -/
def readsTable : Instr → Bool
  | .logsin _ _ => true
  | .log _ _ => true
  | .exp _ _ => true
  | .output _ _ => true
  | .pitch _ _ => true
  | .scale _ _ => true
  | .init _ _ => false
  | .durp _ _ => false
  | .levp _ _ => false
  | .pitp _ _ => false
  | .rdstat _ _ => false
  | .reserved _ _ _ => false

/-- The instruction with the words of the ports it does not use replaced by zeros (rules R72, R74). -/
def usedPorts : Instr → Instr
  | .init a b => .init a b
  | .logsin a _ => .logsin a 0#32
  | .log a _ => .log a 0#32
  | .exp a _ => .exp a 0#32
  | .output a b => .output a b
  | .pitch a _ => .pitch a 0#32
  | .scale a _ => .scale a 0#32
  | .durp a _ => .durp a 0#32
  | .levp a _ => .levp a 0#32
  | .pitp a b => .pitp a b
  | .rdstat _ _ => .rdstat 0#32 0#32
  | .reserved cmd _ _ => .reserved cmd 0#32 0#32

/-- The CMD word of a mnemonic, in the table of rule R72. -/
def AsmCommand.opcode : AsmCommand → Nat
  | .init _ => 0x1
  | .logsin _ => 0x2
  | .log _ => 0x3
  | .exp _ => 0x4
  | .output _ _ => 0x5
  | .pitch _ => 0x6
  | .scale _ => 0x7
  | .durp _ => 0x8
  | .levp _ => 0x9
  | .pitp _ _ => 0xA
  | .rdstat => 0xB

/-- The operand with the name `n` replaced by the literal that stands for the word `w`. -/
def AsmOperand.resolve (n : String) (w : Word) : AsmOperand → AsmOperand
  | .literal v => .literal v
  | .name m => if m = n then .literal w.toNat else .name m

/-- The line's command with the name `n` replaced in every operand (rule R84: the TE sees the resolved words alone). -/
def AsmCommand.resolve (n : String) (w : Word) : AsmCommand → AsmCommand
  | .init rate => .init rate
  | .logsin a => .logsin (a.resolve n w)
  | .log a => .log (a.resolve n w)
  | .exp a => .exp (a.resolve n w)
  | .output a b => .output (a.resolve n w) (b.resolve n w)
  | .pitch a => .pitch (a.resolve n w)
  | .scale a => .scale (a.resolve n w)
  | .durp a => .durp (a.resolve n w)
  | .levp a => .levp (a.resolve n w)
  | .pitp a b => .pitp (a.resolve n w) (b.resolve n w)
  | .rdstat => .rdstat

end Sys2Proof.Machine
end

