-- ==== Sys2Proof/Certificates/Slice0/Obligations.lean ====
section
/-!
DEFINITION. The statements for the provers. Each docstring names the rule or the section of spec/ that the statement
formalises.
-/

open Sys2Proof Sys2Proof.Machine

/-! ## Reset, the invariant, encoding -/

/-- Derived from 10_state.md section 4 and 70_reset_and_hazards.md section 1: a reset event leaves the reset state of the
table there (TABLES none, READY, FAULT, FCAUSE, BUSY and STATUS 0, no response pending), the command in flight is abandoned,
and what the requesters have not yet issued stays; `State.reset` has those values too. That reset is one event of one step
is the model's choice (log entries 3 and 7), and that STATUS is 0 is derived there. -/
def Obligations.AssertingResetGivesTheResetState : Prop :=
  (∀ (s : State) (rest : List Event), s.inputs = .reset :: rest →
    ∃ t, step s = .next t ∧ t.tables = none ∧ t.ready = false ∧ t.fault = false ∧ t.fcause = 0#4 ∧ t.busy = false ∧
      t.status = 0#32 ∧ t.inflight = none ∧ t.rsp = none ∧ t.answers = [] ∧ t.inputs = rest) ∧
  State.reset.tables = none ∧ State.reset.fault = false ∧ State.reset.fcause = 0#4 ∧ State.reset.busy = false ∧
    State.reset.status = 0#32 ∧ State.reset.rsp = none ∧ State.reset.answers = []

/-- Derived from 10_state.md sections 2 and 4: the reset state meets the invariant. -/
def Obligations.ResetStateMeetsTheInvariant : Prop := State.reset.Inv

/-- Derived from 10_state.md section 2, 60_exceptions.md sections 1 and 3: every step keeps the invariant. Its BUSY clause
rests on log entry 5 and its port clauses on log entries 4 and 6. -/
def Obligations.EveryStepKeepsTheInvariant : Prop :=
  ∀ s t : State, s.Inv → step s = .next t → t.Inv

/-- Derived from 30_encoding.md sections 1 and 2: decoding and encoding are inverse to each other, on every well-formed
instruction and on every one of the 2^96 commands. -/
def Obligations.DecodeAndEncodeAreInverse : Prop :=
  (∀ i : Instr, i.wf = true → decode (encode i) = i) ∧
  ∀ c : Command, (decode c).wf = true ∧ encode (decode c) = c

/-- Rule R72: the opcode map, the full CMD word against each row. -/
def Obligations.DecodingFollowsTheOpcodeMap : Prop :=
  ∀ cmd a b : Word,
    (cmd.toNat = 0x1 → decode ⟨cmd, a, b⟩ = .init a b) ∧
    (cmd.toNat = 0x2 → decode ⟨cmd, a, b⟩ = .logsin a b) ∧
    (cmd.toNat = 0x3 → decode ⟨cmd, a, b⟩ = .log a b) ∧
    (cmd.toNat = 0x4 → decode ⟨cmd, a, b⟩ = .exp a b) ∧
    (cmd.toNat = 0x5 → decode ⟨cmd, a, b⟩ = .output a b) ∧
    (cmd.toNat = 0x6 → decode ⟨cmd, a, b⟩ = .pitch a b) ∧
    (cmd.toNat = 0x7 → decode ⟨cmd, a, b⟩ = .scale a b) ∧
    (cmd.toNat = 0x8 → decode ⟨cmd, a, b⟩ = .durp a b) ∧
    (cmd.toNat = 0x9 → decode ⟨cmd, a, b⟩ = .levp a b) ∧
    (cmd.toNat = 0xA → decode ⟨cmd, a, b⟩ = .pitp a b) ∧
    (cmd.toNat = 0xB → decode ⟨cmd, a, b⟩ = .rdstat a b) ∧
    (cmd.toNat = 0x0 ∨ 0xC ≤ cmd.toNat → decode ⟨cmd, a, b⟩ = .reserved cmd a b)

/-- Derived from 30_encoding.md section 2: one command of each family of the opcode map, its three words written out from the
spec. Their joint numbering (CMD lowest, then A, then B, missing words 0) is the model's choice, log entry 16. -/
def Obligations.OneWordOfEachFamilyDecodes : Prop :=
  decodeTableWord 96 0x40E588800000000000000001 = some (.init 0x00000000#32 0x40E58880#32) ∧
  decodeTableWord 96 0x000000000001080000000002 = some (.logsin 0x00010800#32 0#32) ∧
  decodeTableWord 96 0xFF8000000000400000000005 = some (.output 0x00004000#32 0xFF800000#32) ∧
  decodeTableWord 96 0x00000000FFFFFFF300000007 = some (.scale 0xFFFFFFF3#32 0#32) ∧
  decodeTableWord 96 0x00000007000000320000000A = some (.pitp 0x00000032#32 0x00000007#32) ∧
  decodeTableWord 32 0x0000000B = some (.rdstat 0#32 0#32) ∧
  decodeTableWord 32 0x80000004 = some (.reserved 0x80000004#32 0#32 0#32)

/-! ## INIT -/

/-- Rules R100 and R102: a finite positive rate builds the table set of `GEN` whatever was there before and answers 0 / OK
(BUSY is 0 at the end); any other rate drops the tables and takes the fault BAD_RATE. FAULT and FCAUSE are written by the
fault procedure alone. -/
def Obligations.InitBuildsOrDropsTheTables : Prop :=
  ∀ (a b : Word) (s : State),
    ((f64 (b ++ a)).isFinite = true ∧ (f64 (b ++ a)).isPositive = true →
      exec (.init a b) s =
        .next (answering 0#32 { s with tables := some (Config.gen (b ++ a)), busy := false })) ∧
    (¬ ((f64 (b ++ a)).isFinite = true ∧ (f64 (b ++ a)).isPositive = true) →
      exec (.init a b) s = .next (afterFault 0x3#4 { s with tables := none }))

/-- Derived from 00_scope.md section 5 (the binary64 layout is general knowledge there, log entry 9): a rate is valid just
when its encoding lies strictly between that of +0.0 and that of +infinity. -/
def Obligations.RateIsValidByItsEncoding : Prop :=
  ∀ a b : Word, validRate (rateWord a b) = true ↔
    0 < b.toNat * 2 ^ 32 + a.toNat ∧ b.toNat * 2 ^ 32 + a.toNat < 0x7FF0000000000000

/-- Derived from 40_init.md section 2 and, for the range of the output shift, 42_exp_output.md section 3 and 00_scope.md
section 4: in a state the TE can be in, a table set that is present meets every constraint on `GEN`, and OUT_SHIFT is at
most 8. -/
def Obligations.PresentTablesAreLegal : Prop :=
  ∀ (s : State) (t : TableSet), s.Inv → s.tables = some t →
    t.Legal Config.outShift Config.logTol ∧ Config.outShift ≤ 8

/-- Derived from 70_reset_and_hazards.md section 3: after an INIT with a bad rate every table-reading command, whoever
issues it, faults NOT_INITIALISED and leaves no tables. -/
def Obligations.BadRateSilencesEveryQuery : Prop :=
  ∀ (a b : Word) (s t : State) (i : Instr), validRate (rateWord a b) = false → exec (.init a b) s = .next t →
    readsTable i = true → exec i t = .next (afterFault 0x2#4 t) ∧ (afterFault 0x2#4 t).tables = none

/-! ## LOGSIN and LOG -/

/-- Rule R120: LOGSIN. The result is below 2^31 in every state the TE can be in. -/
def Obligations.LogsinReadsTheMaskedEntry : Prop :=
  ∀ (a b : Word) (s : State),
    (∀ (t : TableSet) (i : Fin 16384), s.tables = some t → i.val = a.toNat % 16384 →
      exec (.logsin a b) s = .next (answering (t.lst.get i) s) ∧ (s.Inv → (t.lst.get i).toNat ≤ 0x7FFFFFFF)) ∧
    (s.tables = none → exec (.logsin a b) s = .next (afterFault 0x2#4 s))

/-- Rule R122: LOG. -/
def Obligations.LogReadsTheMaskedEntry : Prop :=
  ∀ (a b : Word) (s : State),
    (∀ (t : TableSet) (i : Fin 16384), s.tables = some t → i.val = a.toNat % 16384 →
      exec (.log a b) s = .next (answering (t.lgt.get i) s)) ∧
    (s.tables = none → exec (.log a b) s = .next (afterFault 0x2#4 s))

/-- Derived from 41_table_read.md (the round-trip law, which the spec derives): LOG and then EXP recovers x within the
tolerance, for every x that the tolerance covers. -/
def Obligations.LogThenExpRecoversTheOperand : Prop :=
  ∀ (a b b' : Word) (s : State) (x : Fin 16384), s.Inv → s.ready = true → x.val = a.toNat % 16384 →
    ∃ l y : Word, exec (.log a b) s = .next (answering l s) ∧
      exec (.exp l b') (answering l s) = .next (answering y s) ∧
      (Config.logTol x = none ∨ ∃ tol, Config.logTol x = some tol ∧ ((y.toNat : Int) - (x.val : Int)).natAbs ≤ tol)

/-- Derived from 20_memory.md section 1: operands outside the nominal range alias. Operands with the same masked index
give the same outcome of LOGSIN and LOG. -/
def Obligations.MaskedIndicesAlias : Prop :=
  ∀ (a a' b b' : Word) (s : State), a.toNat % 16384 = a'.toNat % 16384 →
    exec (.logsin a b) s = exec (.logsin a' b') s ∧ exec (.log a b) s = exec (.log a' b') s

/-! ## EXP and OUTPUT -/

/-- Rules R140, R141 and R142: EXP, with the range of its result and the zero tail in the states the TE can be in. -/
def Obligations.ExpDecompressesItsOperand : Prop :=
  ∀ (a b : Word) (s : State),
    (∀ t : TableSet, s.tables = some t →
      ∃ v : Word, exec (.exp a b) s = .next (answering v s) ∧ v.toNat = decompressed t a ∧
        (s.Inv → v.toNat ≤ 0x7FFFFFFF / 2 ^ Config.outShift ∧ (0x7C000 ≤ a.toNat → a.toNat < 2 ^ 31 → v = 0#32) ∧
          ∀ first : Fin 16384, first.val = 0 → v.toNat ≤ (t.ext.get first).toNat)) ∧
    (s.tables = none → exec (.exp a b) s = .next (afterFault 0x2#4 s))

/-- Derived from 42_exp_output.md section 2, law (a) of EXP_CORE (which the spec derives): EXP is non-increasing on
non-negative operands. -/
def Obligations.ExpIsNonIncreasing : Prop :=
  ∀ (a a' b b' v v' : Word) (s : State), s.Inv → s.ready = true → a.toNat ≤ a'.toNat → a'.toNat < 2 ^ 31 →
    exec (.exp a b) s = .next (answering v s) → exec (.exp a' b') s = .next (answering v' s) → v'.toNat ≤ v.toNat

/-- Derived from 42_exp_output.md section 2, laws (b) and (d) of EXP_CORE (which the spec derives): a unit of exponent
halves the result, and a negative operand gives the unshifted entry. -/
def Obligations.ExpHalvesPerUnitOfExponent : Prop :=
  ∀ (a b : Word) (s : State) (t : TableSet), s.Inv → s.tables = some t →
    (a.toNat < 0x7C000 → ∃ v v' : Word, exec (.exp a b) s = .next (answering v s) ∧
      exec (.exp (a + 0x4000#32) b) s = .next (answering v' s) ∧ v'.toNat = v.toNat / 2) ∧
    (∀ i : Fin 16384, 2 ^ 31 ≤ a.toNat → i.val = a.toNat % 16384 →
      exec (.exp a b) s = .next (answering (t.ext.get i) s))

/-- Rule R145: OUTPUT, with the wrapped sum; the result is non-negative as s32 in the states the TE can be in. -/
def Obligations.OutputDecompressesTheAttenuatedSum : Prop :=
  ∀ (a b : Word) (s : State),
    (∀ (t : TableSet) (l : Word), s.tables = some t →
      (l.toNat : Int) = (a.toInt + attenuation b.toInt / 64) % 2 ^ 32 →
      ∃ v : Word, exec (.output a b) s = .next (answering v s) ∧
        v.toNat = decompressed t l * 2 ^ Config.outShift % 2 ^ 32 ∧ (s.Inv → v.toNat ≤ 0x7FFFFFFF)) ∧
    (s.tables = none → exec (.output a b) s = .next (afterFault 0x2#4 s))

/-- Derived from 42_exp_output.md section 3, the function ATTEN with its range, and that it does not rise with the envelope
(which the spec derives). -/
def Obligations.AttenuationIsClampedAndNonIncreasing : Prop :=
  ∀ env : Word,
    (env.toInt < -8388608 → atten env = 0x1000000) ∧
    (8388607 < env.toInt → atten env = 0) ∧
    (-8388608 ≤ env.toInt → env.toInt ≤ 8388607 → atten env = 8388608 - env.toInt ∧ 1 ≤ atten env) ∧
    0 ≤ atten env ∧ atten env ≤ 0x1000000 ∧
    ∀ env' : Word, env.toInt ≤ env'.toInt → atten env' ≤ atten env

/-- Rule R146: the shift of OUTPUT loses no bit. The magnitude of the wrapped sum is at most `0x7FFFFFFF >> OUT_SHIFT`, the
result is that magnitude times 2^OUT_SHIFT with no reduction, it is non-negative as s32, and its low OUT_SHIFT bits are 0. -/
def Obligations.OutputIsANonNegativeMagnitude : Prop :=
  Config.outShift ≤ 8 ∧
  ∀ (a b l : Word) (s : State) (t : TableSet), s.Inv → s.tables = some t →
    (l.toNat : Int) = (a.toInt + attenuation b.toInt / 64) % 2 ^ 32 →
    ∃ v : Word, exec (.output a b) s = .next (answering v s) ∧
      decompressed t l ≤ 0x7FFFFFFF / 2 ^ Config.outShift ∧ v.toNat = decompressed t l * 2 ^ Config.outShift ∧
      v.toNat ≤ 0x7FFFFFFF ∧ v.toNat % 2 ^ Config.outShift = 0

/-- Derived from 42_exp_output.md section 3, law (a) of OUTPUT (which the spec derives), and 90_conflicts.md C1: OUTPUT is
non-decreasing in the envelope. -/
def Obligations.OutputIsNonDecreasingInTheEnvelope : Prop :=
  ∀ (a b b' v v' : Word) (s : State), s.Inv → s.ready = true → 0 ≤ a.toInt → a.toInt + 0x40000 ≤ 2 ^ 31 - 1 →
    b.toInt ≤ b'.toInt → exec (.output a b) s = .next (answering v s) →
    exec (.output a b') s = .next (answering v' s) → v.toNat ≤ v'.toNat

/-- Derived from 42_exp_output.md section 3, laws (b) and (c) of OUTPUT (which the spec derives): at EG_MAX and above the
result is the unattenuated decompression; at EG_MIN and below it is the decompression shifted right by 16 more, at most
0x7FFF in all, at most 0x7F00 at the default shift, and 0 from 0x3C000 on. -/
def Obligations.OutputAtTheEndsOfTheEnvelope : Prop :=
  ∀ (a b : Word) (s : State) (t : TableSet), s.Inv → s.tables = some t →
    (8388607 ≤ b.toInt → ∃ v : Word, exec (.output a b) s = .next (answering v s) ∧
      v.toNat = decompressed t a * 2 ^ Config.outShift) ∧
    (b.toInt ≤ -8388608 → 0 ≤ a.toInt → a.toInt + 0x40000 ≤ 2 ^ 31 - 1 →
      ∃ v : Word, exec (.output a b) s = .next (answering v s) ∧
        (a.toNat < 0x3C000 → v.toNat = decompressed t a / 2 ^ 16 * 2 ^ Config.outShift) ∧ v.toNat ≤ 0x7FFF ∧
        (Config.outShift = 8 → v.toNat ≤ 0x7F00) ∧ (0x3C000 ≤ a.toNat → v = 0#32))

/-! ## PITCH and SCALE -/

/-- Rule R170: PITCH. The octave is the floor of the operand by 4096. -/
def Obligations.PitchShiftsTheNoteRatio : Prop :=
  ∀ (a b : Word) (s : State),
    (∀ (t : TableSet) (i : Fin 4096), s.tables = some t → i.val = a.toNat % 4096 →
      ∃ v : Word, exec (.pitch a b) s = .next (answering v s) ∧
        (∀ o : Nat, a.toInt / 4096 = o → o ≤ 31 → v.toNat = (t.ntt.get i).toNat * 2 ^ o % 2 ^ 32) ∧
        (∀ o : Nat, a.toInt / 4096 = -(o : Int) → 1 ≤ o → o ≤ 31 → v.toNat = (t.ntt.get i).toNat / 2 ^ o) ∧
        (32 ≤ a.toInt / 4096 ∨ a.toInt / 4096 ≤ -32 → v = 0#32)) ∧
    (s.tables = none → exec (.pitch a b) s = .next (afterFault 0x2#4 s))

/-- Derived from 43_pitch_scale.md section 1, laws (a), (b) and (c) of PITCH (which the spec derives), and 90_conflicts.md
C3: raising the octave doubles the result, lowering it halves the result, with the rounding of the shifts. -/
def Obligations.PitchDoublesPerOctave : Prop :=
  ∀ (f b : Word) (s : State), s.ready = true →
    ∃ p up down : Word, exec (.pitch f b) s = .next (answering p s) ∧
      exec (.pitch (f + 0x1000#32) b) s = .next (answering up s) ∧
      exec (.pitch (f - 0x1000#32) b) s = .next (answering down s) ∧
      (0 ≤ f.toInt / 4096 → f.toInt / 4096 ≤ 30 → up.toNat = 2 * p.toNat % 2 ^ 32) ∧
      (f.toInt / 4096 ≤ 0 → -30 ≤ f.toInt / 4096 → down.toNat = p.toNat / 2) ∧
      (f.toInt / 4096 < 0 → -31 ≤ f.toInt / 4096 → up.toNat = 2 * p.toNat ∨ up.toNat = 2 * p.toNat + 1)

/-- Rule R172: SCALE. The split is on the magnitude, and the signed sum is reduced mod 2^32. -/
def Obligations.ScaleSplitsTheMagnitude : Prop :=
  ∀ (a b : Word) (s : State),
    (∀ (t : TableSet) (k : Fin 12), s.tables = some t → k.val = a.toInt.natAbs % 12 →
      ∃ v : Word, exec (.scale a b) s = .next (answering v s) ∧
        (0 ≤ a.toInt →
          (v.toNat : Int) = ((t.sct.get k).toNat + 4096 * (a.toInt.natAbs / 12 : Nat) : Int) % 2 ^ 32) ∧
        (a.toInt < 0 →
          (v.toNat : Int) = (-((t.sct.get k).toNat + 4096 * (a.toInt.natAbs / 12 : Nat) : Int)) % 2 ^ 32) ∧
        (s.Inv → k.val = 0 → t.sct.get k = 0#32)) ∧
    (s.tables = none → exec (.scale a b) s = .next (afterFault 0x2#4 s))

/-- Derived from 43_pitch_scale.md section 2, laws (a) to (d) of SCALE (which the spec derives): zero at 0, 4096 at 12,
antisymmetry but for -2^31, and the octave step. -/
def Obligations.ScaleIsAntisymmetricWithOctaveSteps : Prop :=
  ∀ (n b : Word) (s : State), s.Inv → s.ready = true →
    exec (.scale 0#32 b) s = .next (answering 0#32 s) ∧
    exec (.scale 12#32 b) s = .next (answering 4096#32 s) ∧
    ∃ v : Word, exec (.scale n b) s = .next (answering v s) ∧
      (n ≠ 0x80000000#32 → exec (.scale (-n) b) s = .next (answering (-v) s)) ∧
      (n.toNat ≤ 2 ^ 31 - 13 → exec (.scale (n + 12#32) b) s = .next (answering (v + 4096#32) s))

/-! ## DURP, LEVP, PITP, RDSTAT -/

/-- Rules R200, R203 and R206: the decoders answer their curves in every state, with the tables present or absent; in
particular LEVP's result lies in 1 to 0x100000 for the values 0 to 99 (rule R203). -/
def Obligations.DecodersAnswerTheirCurves : Prop :=
  ∀ (a b : Word) (s : State),
    exec (.durp a b) s = .next (answering (Config.durFn a) s) ∧
    exec (.levp a b) s = .next (answering (Config.levFn a) s) ∧
    exec (.pitp a b) s = .next (answering (Config.pitFn a b) s) ∧
    (a.toNat ≤ 99 → 1 ≤ (Config.levFn a).toNat ∧ (Config.levFn a).toNat ≤ 0x00100000)

/-- Rules R201, R204 and R207: on 0 to 99 the three decoders are non-decreasing in the value, and LEVP's result is above 0
and at most 0x100000. -/
def Obligations.DecodersAreNonDecreasing : Prop :=
  ∀ (a a' b : Word) (s : State), a.toNat ≤ a'.toNat → a'.toNat ≤ 99 →
    (∃ v v' : Word, exec (.durp a b) s = .next (answering v s) ∧ exec (.durp a' b) s = .next (answering v' s) ∧
      v.toNat ≤ v'.toNat) ∧
    (∃ v v' : Word, exec (.levp a b) s = .next (answering v s) ∧ exec (.levp a' b) s = .next (answering v' s) ∧
      v.toNat ≤ v'.toNat ∧ 0 < v.toNat ∧ v'.toNat ≤ 0x100000) ∧
    (∃ v v' : Word, exec (.pitp a b) s = .next (answering v s) ∧ exec (.pitp a' b) s = .next (answering v' s) ∧
      v.toNat ≤ v'.toNat)

/-- Rule R220: RDSTAT answers FCAUSE in bits 7:4, FAULT in bit 1, READY in bit 0 and zeros elsewhere, and changes nothing. -/
def Obligations.RdstatReadsTheStatusWord : Prop :=
  ∀ (a b : Word) (s : State), ∃ v : Word, exec (.rdstat a b) s = .next (answering v s) ∧
    v.toNat = 16 * s.fcause.toNat + (if s.fault = true then 2 else 0) + (if s.tables = none then 0 else 1)

/-- Derived from 45_status.md (which derives it): a second RDSTAT with no command between returns the same word and leaves
the same state. -/
def Obligations.RdstatRepeats : Prop :=
  ∀ (a b a' b' : Word) (s t : State), exec (.rdstat a b) s = .next t → exec (.rdstat a' b') t = .next t

/-! ## Faults and responses -/

/-- Rule R231: a CMD word with any of bits 31:4 set, or with OP = 0x0 or 0xC to 0xF, takes the fault ILLEGAL_COMMAND and
has no other effect. -/
def Obligations.ReservedEncodingsFault : Prop :=
  ∀ (cmd a b : Word) (s : State), cmd.toNat / 16 ≠ 0 ∨ cmd.toNat % 16 = 0 ∨ 12 ≤ cmd.toNat % 16 →
    decode ⟨cmd, a, b⟩ = .reserved cmd a b ∧ exec (.reserved cmd a b) s = .next (afterFault 0x1#4 s)

/-- Rule R233: without tables exactly the six table-reading commands fault NOT_INITIALISED; with tables none does. -/
def Obligations.NotInitialisedIsRaisedByTheSixQueries : Prop :=
  ∀ (i : Instr) (s : State),
    (readsTable i = true → s.tables = none → exec i s = .next (afterFault 0x2#4 s)) ∧
    (readsTable i = false ∨ s.tables ≠ none →
      ∃ (t : State) (r : Response), exec i s = .next t ∧ t.rsp = some r ∧ r.rs ≠ 0x2#4)

/-- Derived from 30_encoding.md sections 1 and 3: every command is answered by exactly one response, with one of the four
codes. That the response then joins the end of an unbounded list of waiting ones is the model's choice, log entry 6. -/
def Obligations.EveryCommandIsAnswered : Prop :=
  ∀ (c : Command) (s : State), ∃ (t : State) (r : Response),
    exec (decode c) s = .next t ∧ t.rsp = some r ∧ r.rs.toNat ≤ 3 ∧
      t.answers = s.answers ∧ ∀ p : Port, (post p t).answers = s.answers ++ [⟨p, r⟩]

/-- Rule R236: the fault procedure, for every command that answers a fault. FCAUSE takes the first cause, FAULT is set, R
is 0, and nothing else changes but the tables on BAD_RATE. -/
def Obligations.FaultsArePreciseAndSticky : Prop :=
  ∀ (i : Instr) (s t : State) (r : Response), exec i s = .next t → t.rsp = some r → r.rs ≠ 0x0#4 →
    r.r = 0#32 ∧ t.fault = true ∧ t.fcause = (if s.fault = true then s.fcause else r.rs) ∧
    (r.rs ≠ 0x3#4 → t.tables = s.tables) ∧ (r.rs = 0x3#4 → t.tables = none) ∧
    t.busy = s.busy ∧ t.inflight = s.inflight ∧ t.answers = s.answers ∧ t.inputs = s.inputs

/-- Rule R232: with tables present, no command but a reserved one or an INIT with a bad rate faults, whatever its operands. -/
def Obligations.NoOperandFaults : Prop :=
  ∀ (i : Instr) (s : State), s.tables ≠ none → (∀ cmd a b, i ≠ .reserved cmd a b) →
    (∀ a b, i = .init a b → validRate (rateWord a b) = true) →
    ∃ (t : State) (v : Word), exec i s = .next t ∧ t.rsp = some ⟨v, 0x0#4⟩ ∧ t.fault = s.fault ∧ t.fcause = s.fcause

/-- Derived from 20_memory.md section 1 and 10_state.md section 3, the frame of the eleven rows but INIT: the tables, BUSY,
the command in flight, the waiting responses and the inputs are unchanged; FAULT and FCAUSE are unchanged unless the
response reports a fault. -/
def Obligations.QueriesWriteNothingButTheResponse : Prop :=
  ∀ (i : Instr) (s t : State) (r : Response), (∀ a b, i ≠ .init a b) → exec i s = .next t → t.rsp = some r →
    t.tables = s.tables ∧ t.busy = s.busy ∧ t.inflight = s.inflight ∧ t.answers = s.answers ∧ t.inputs = s.inputs ∧
    (r.rs = 0x0#4 → t = { s with rsp := some r })

/-- Rule R238: FAULT and FCAUSE, once set, are kept by every step but a reset. -/
def Obligations.OnlyResetClearsTheFaultState : Prop :=
  ∀ s t : State, s.fault = true → (∀ rest, s.inputs ≠ .reset :: rest) → step s = .next t →
    t.fault = true ∧ t.fcause = s.fcause

/-- Rule R74: the words of unused ports make no difference to any outcome. -/
def Obligations.UnusedPortsAreIgnored : Prop :=
  ∀ (i : Instr) (s : State), exec i s = exec (usedPorts i) s

/-- Derived from 20_memory.md section 3: what a command but RDSTAT answers and does to the tables depends on its operands,
the configuration and the table set present alone. -/
def Obligations.AnswersDependOnTheTablesAlone : Prop :=
  ∀ (i : Instr) (s s' t t' : State), (∀ a b, i ≠ .rdstat a b) → s.tables = s'.tables →
    exec i s = .next t → exec i s' = .next t' → t.rsp = t'.rsp ∧ t.tables = t'.tables

/-! ## The machine -/

/-- Derived from 20_memory.md section 3, with what the step adds around a command (the model's choice, log entries 3, 4, 6 and
8): a command in flight is executed by the next step that brings no reset and no taken response, and its response is posted
at its port. -/
def Obligations.StepRunsTheDecodedCommand : Prop :=
  ∀ (s t : State) (q : Request) (i : Instr), s.inflight = some q → decode q.command = i →
    (s.inputs = [] → exec i s = .next t → step s = .next (post q.port t)) ∧
    (∀ rest, s.inputs = .clock :: rest → exec i { s with inputs := rest } = .next t →
      step s = .next (post q.port t)) ∧
    (∀ p c rest, s.inputs = .command p c :: rest → exec i s = .next t → step s = .next (post q.port t))

/-- Derived from 10_state.md section 1 (placing and numbering the bits are the model's choice, log entries 8 and 16): a command
placed by its bits is what the next step runs. -/
def Obligations.PlacedCommandRunsNext : Prop :=
  ∀ (s t : State) (nbits w : Nat) (i : Instr), decodeTableWord nbits w = some i →
    exec i { s.withFetchWord nbits w with inputs := s.inputs } = .next t →
    step (s.withFetchWord nbits w) = .next (post firstPort t)

/-- Derived from 30_encoding.md section 6: an offered command is accepted in a ready block, and BUSY is set just for an INIT
with a valid rate. When the block is ready is log entries 4 and 6 (DESIGN CHOICE), BUSY at acceptance log entry 5 (DEDUCED). -/
def Obligations.ReadyBlockAcceptsTheOffer : Prop :=
  ∀ (s : State) (p : Port) (c : Command) (rest : List Event), s.inputs = .command p c :: rest → s.cmdReady = true →
    ∃ t, step s = .next t ∧ t = { s with inputs := rest, inflight := some ⟨p, c⟩, busy := t.busy } ∧
      (t.busy = true ↔ ∃ a b, decode c = .init a b ∧ validRate (rateWord a b) = true)

/-- Derived from 70_reset_and_hazards.md section 3 and 40_init.md section 1: while BUSY = 1 no offered command is accepted, on
any port. In a state the TE can be in, BUSY means that an INIT with a valid rate is in flight (log entry 5, DEDUCED), and
the step completes it, which is the model's choice of one step (log entry 4): BUSY is 0, the tables are those of that INIT's
own rate, and 0 / OK waits at its port. -/
def Obligations.BusyHoldsEveryCommand : Prop :=
  ∀ (s : State) (p : Port) (c : Command) (rest : List Event), s.inputs = .command p c :: rest → s.busy = true →
    s.cmdReady = false ∧
    (∀ t, step s = .next t → t.inputs = s.inputs ∧ (t.inflight = none ∨ t.inflight = s.inflight)) ∧
    (s.Inv → ∃ (q : Request) (a b : Word) (t : State), s.inflight = some q ∧ decode q.command = .init a b ∧
      validRate (rateWord a b) = true ∧ step s = .next t ∧ t.busy = false ∧ t.inflight = none ∧
      t.tables = some (Config.gen (rateWord a b)) ∧ t.answers = s.answers ++ [⟨q.port, ⟨0#32, 0x0#4⟩⟩] ∧
      t.inputs = s.inputs)

/-- Derived from 30_encoding.md section 6 and 20_memory.md section 3: what each step but a reset does to the responses waiting
at a port. A take at the port delivers the oldest; a take elsewhere leaves them; otherwise the command in flight, if it is
the port's, adds its own response at the end, and nothing else changes them. That a command is executed in one step and that
its response waits without limit is log entries 4 and 6. -/
def Obligations.ResponsesKeepTheirOrder : Prop :=
  ∀ (s t : State) (p : Port), (∀ rest, s.inputs ≠ .reset :: rest) → step s = .next t →
    (∀ rest, s.inputs = .take p :: rest → t.answersAt p = (s.answersAt p).tail) ∧
    (∀ p' rest, s.inputs = .take p' :: rest → p' ≠ p → t.answersAt p = s.answersAt p) ∧
    ((∀ p' rest, s.inputs ≠ .take p' :: rest) →
      (s.inflight = none → t.answersAt p = s.answersAt p) ∧
      ∀ q, s.inflight = some q →
        (q.port ≠ p → t.answersAt p = s.answersAt p) ∧
        (q.port = p → ∃ (u : State) (r : Response), exec (decode q.command) s = .next u ∧ u.rsp = some r ∧
          t.answersAt p = s.answersAt p ++ [r]))

/-- Derived from 30_encoding.md section 6: a take always completes. Where rsp_valid is 1 it delivers exactly the oldest
response of its port, the one on the port's R and RS; one response fewer waits, and every other port and everything else of
the block stays. The take as an input is log entry 3, and that it does nothing where none waits is log entry 6, the model's
choices both. -/
def Obligations.TakingDeliversTheOldestResponse : Prop :=
  ∀ (s : State) (p : Port) (rest : List Event), s.inputs = .take p :: rest →
    ∃ t, step s = .next t ∧ t = { s with inputs := rest, answers := t.answers } ∧
      (s.rspValid p = true → ∃ r, s.answersAt p = r :: t.answersAt p ∧ t.answers.length + 1 = s.answers.length) ∧
      (s.rspValid p = false → s.answersAt p = [] ∧ t.answers = s.answers) ∧
      ∀ p', p' ≠ p → t.answersAt p' = s.answersAt p' ∧ t.rspValid p' = s.rspValid p'

/-- Derived from 60_exceptions.md section 6 (the step and the waiting list are log entries 4 and 6): no command can see which
requester issued it. The same command in flight from another port gives the same tables, status and responses; only the port
of its response differs. -/
def Obligations.RequestersAreInvisible : Prop :=
  ∀ (s : State) (p p' : Port) (c : Command), s.inflight = some ⟨p, c⟩ → s.inputs = [] →
    ∃ (t : State) (r : Response), step s = .next t ∧ t.answers = s.answers ++ [⟨p, r⟩] ∧
      step { s with inflight := some ⟨p', c⟩ } = .next { t with answers := s.answers ++ [⟨p', r⟩] }

/-- Derived from 30_encoding.md section 6 and 20_memory.md section 3: a command offered last is accepted, executed and answered
at its own port within three steps. `m` is the block once a command that was in flight is done; the offered command is
accepted there, its response `r` is what `exec` gives it, and before `r` no response joins its port but that of the command
in flight, if that came from the same port. One command in flight and two steps a command are log entry 4, and acceptance
however many responses wait is log entry 6, the model's choices both. -/
def Obligations.OfferedCommandIsAnsweredInThreeSteps : Prop :=
  ∀ (s : State) (p : Port) (c : Command), s.Inv → s.inputs = [.command p c] →
    ∃ (m u t : State) (earlier : List Response) (r : Response),
      ((s.inflight = none ∧ m = s ∧ earlier = []) ∨
        ∃ (q : Request) (v : State) (x : Response), s.inflight = some q ∧ exec (decode q.command) s = .next v ∧
          v.rsp = some x ∧ m = post q.port v ∧ earlier = if q.port = p then [x] else []) ∧
      exec (decode c) (accept p c { m with inputs := [] }) = .next u ∧ u.rsp = some r ∧
      core.run 3 s = .next t ∧ t = post p u ∧ t.inputs = [] ∧ t.inflight = none ∧
      t.answersAt p = s.answersAt p ++ earlier ++ [r]

/-- Rule R28: over any number of steps without an INIT and without a reset among the inputs those steps can reach, the table
set stays what it is. -/
def Obligations.TablesAreImmutableBetweenInits : Prop :=
  ∀ (k : Nat) (s t : State), s.tablesAtRest k → core.run k s = .next t → t.tables = s.tables

/-- Derived from 10_state.md section 2: a step changes the tables only by executing an INIT or by a reset, whatever is
scheduled after it. -/
def Obligations.OnlyInitAndResetChangeTheTables : Prop :=
  ∀ s t : State, (∀ q, s.inflight = some q → isInit q.command = false) → (∀ rest, s.inputs ≠ .reset :: rest) →
    step s = .next t → t.tables = s.tables

/-- Derived from 20_memory.md section 3: any commands, from any requesters, offered in any order to an idle block are executed
as one total order of atomic commands. The schedule is log entry 3, two steps a command log entry 4, and acceptance however
many responses wait log entry 6, all the model's choices. Two steps a command give exactly the state that executing them one
after the other gives, every response included. -/
def Obligations.EveryScheduleIsATotalOrder : Prop :=
  ∀ (requests : List Request) (s : State), s.idle → s.inputs = [] →
    core.run (2 * requests.length) { s with inputs := offers requests } = .next (runAtomic requests s)

/-! ## The assembler notation -/

/-- Rule R84: a line of any mnemonic, with a name that no response has defined in any of its operands, is never issued. The
TE never sees a name: two tables of names that give the operands the same words give the same command. -/
def Obligations.UndefinedNamesAreNeverIssued : Prop :=
  ∀ (names : AsmNames) (line : AsmLine),
    (∀ n, .name n ∈ line.command.operands → names.lookup n = none → line.command.assemble names = none) ∧
    ∀ names' : AsmNames, (∀ o ∈ line.command.operands, o.word names = o.word names') →
      line.command.assemble names = line.command.assemble names'

/-- Derived from 30_encoding.md section 7 (the line as a syntax tree and the literal's rounding are log entry 17): a line
whose names are all defined is issued, with its mnemonic's CMD word, the words of opA and opB on A and B, and 0 on an unused
port; a literal gives its value mod 2^32; `init` puts the encoding of its literal on B and A. -/
def Obligations.LinesIssueTheResolvedWords : Prop :=
  ∀ (names : AsmNames) (c : AsmCommand), (∀ n, .name n ∈ c.operands → names.lookup n ≠ none) →
    ∃ w : Command, c.assemble names = some w ∧ w.cmd.toNat = c.opcode ∧
      (∀ rate, c = .init rate → rateWord w.a w.b = rate.encode) ∧
      ((∀ rate, c ≠ .init rate) →
        c.operands[0]?.elim (some 0#32) (AsmOperand.word names) = some w.a ∧
        c.operands[1]?.elim (some 0#32) (AsmOperand.word names) = some w.b) ∧
      ∀ v : Int, ∃ x : Word, (AsmOperand.literal v).word names = some x ∧ (x.toNat : Int) = v % 2 ^ 32

/-- Derived from 30_encoding.md section 7 (that the latest response counts is log entry 17, DEDUCED): after a line with
`%dst` is answered, every line reads that name as the response word R, in whichever operand it stands; a line without `%dst`
defines nothing. -/
def Obligations.NamesStandForTheLatestResponse : Prop :=
  ∀ (names : AsmNames) (line : AsmLine) (r : Response) (c : AsmCommand),
    (∀ n, line.dst = some n →
      c.assemble (line.record r names) = (c.resolve n r.r).assemble names ∧ (line.record r names).lookup n = some r) ∧
    (line.dst = none → c.assemble (line.record r names) = c.assemble names)

/-- Derived from 30_encoding.md section 7 and 00_scope.md section 5: the encoding of a whole number below 2^53 is exact, so an
`init` line with such a rate sends that very number. That it reads back so rests on the hidden bit and bias of binary64 (log
entry 9, PRESUMED); the rounding of log entry 17 does not come into it. -/
def Obligations.WholeRatesAreEncodedExactly : Prop :=
  ∀ n : Nat, 0 < n → n < 2 ^ 53 →
    ∃ m e : Nat, f64 (RealLiteral.encode ⟨false, n, 0⟩) = .finite false m (-(e : Int)) ∧ m = n * 2 ^ e
end

