-- ==== Sys2Proof/Laws/Arith.lean ====
section
/-!
SUPPORT. The shared arithmetic in terms of natural numbers and integers: one lemma per operation of rule R12, and the
indices of rule R51.
-/
namespace Sys2Proof.Machine

/-- The masked index of LST, EXT and LGT is the remainder by 16384. -/
theorem index14_val (a : Word) : (index14 a).val = a.toNat % 16384 := by
  change (a &&& 0x3FFF#32).toNat = _
  rw [BitVec.toNat_and]
  exact Nat.and_two_pow_sub_one_eq_mod a.toNat 14

/-- The masked index of NTT is the remainder by 4096. -/
theorem index12_val (a : Word) : (index12 a).val = a.toNat % 4096 := by
  change (a &&& 0xFFF#32).toNat = _
  rw [BitVec.toNat_and]
  exact Nat.and_two_pow_sub_one_eq_mod a.toNat 12

/-- The reading of a word as s32, by its top bit. -/
theorem s32_eq (w : Word) : s32 w = if w.toNat < 2 ^ 31 then (w.toNat : Int) else (w.toNat : Int) - 2 ^ 32 := by
  unfold s32
  rw [BitVec.toInt_eq_toNat_cond]
  split <;> split <;> omega

/-- `u32` keeps the remainder by 2^32. -/
theorem u32_toNat (x : Int) : ((u32 x).toNat : Int) = x % 2 ^ 32 := by
  unfold u32
  rw [BitVec.toNat_ofInt]
  have : (0 : Int) ≤ x % ((2 ^ 32 : Nat) : Int) := Int.emod_nonneg _ (by decide)
  omega

/-- A right shift within the word. -/
theorem lsr32_toNat (v : Word) (s : Nat) (h : s ≤ 31) : (lsr32 v s).toNat = v.toNat / 2 ^ s := by
  have : v.toNat / 2 ^ s < 2 ^ 32 := Nat.lt_of_le_of_lt (Nat.div_le_self _ _) v.isLt
  simp only [lsr32, h, if_true, BitVec.toNat_ofNat, Nat.mod_eq_of_lt this]

/-- A right shift by 32 or more. -/
theorem lsr32_of_wide (v : Word) (s : Nat) (h : 32 ≤ s) : lsr32 v s = 0#32 := by
  simp [lsr32, show ¬ s ≤ 31 by omega]

/-- A left shift within the word keeps the low 32 bits. -/
theorem lsl32_toNat (v : Word) (s : Nat) (h : s ≤ 31) : (lsl32 v s).toNat = v.toNat * 2 ^ s % 2 ^ 32 := by
  simp [lsl32, h]

/-- A left shift by 32 or more. -/
theorem lsl32_of_wide (v : Word) (s : Nat) (h : 32 ≤ s) : lsl32 v s = 0#32 := by
  simp [lsl32, show ¬ s ≤ 31 by omega]

/-- The clamped exponent of EXP_CORE lies in 0 to 31. -/
theorem clamp_exponent_le (e : Int) : (clamp e 0 31).toNat ≤ 31 := by
  unfold clamp
  omega

/-- EXP_CORE as a division. -/
theorem expCore_toNat (t : TableSet) (l : Word) :
    (expCore t l).toNat = (readExt t (index14 l)).toNat / 2 ^ (clamp (asr l 14) 0 31).toNat :=
  lsr32_toNat _ _ (clamp_exponent_le _)

/-- The reading of a normal binary64 encoding, by its biased exponent `e + 1` and its fraction. -/
theorem f64_normal (w : Rate) (e frac : Nat) (he : e < 2046) (hf : frac < 2 ^ 52)
    (hw : w.toNat = (e + 1) * 2 ^ 52 + frac) : f64 w = .finite false (2 ^ 52 + frac) (((e + 1 : Nat) : Int) - 1075) := by
  have h1 : w.msb = false := by
    rw [BitVec.msb_eq_decide, decide_eq_false_iff_not, hw]
    omega
  have h2 : (w.extractLsb' 52 11).toNat = e + 1 := by
    rw [BitVec.extractLsb'_toNat, Nat.shiftRight_eq_div_pow, hw]
    omega
  have h3 : (w.extractLsb' 0 52).toNat = frac := by
    rw [BitVec.extractLsb'_toNat, Nat.shiftRight_eq_div_pow, hw]
    omega
  unfold f64
  rw [h1, h2, h3, if_neg (by omega), if_neg (by omega)]

end Sys2Proof.Machine
end

