-- ==== Sys2Proof/Laws/Assembler.lean ====
section
/-!
SUPPORT. The assembler notation: what a word of an operand and a recorded name are, said once.
-/
namespace Sys2Proof.Machine

@[simp] theorem word_literal (names : AsmNames) (v : Int) : (AsmOperand.literal v).word names = some (u32 v) := rfl
@[simp] theorem word_name (names : AsmNames) (n : String) :
    (AsmOperand.name n).word names = (names.lookup n).map Response.r := rfl
@[simp] theorem record_unnamed (c : AsmCommand) (r : Response) (names : AsmNames) :
    (AsmLine.mk none c).record r names = names := rfl
@[simp] theorem record_named (n : String) (c : AsmCommand) (r : Response) (names : AsmNames) :
    (AsmLine.mk (some n) c).record r names = (n, r) :: names := rfl

/-- A word, read as a literal, stands for itself. -/
@[simp] theorem u32_of_toNat (w : Word) : u32 (w.toNat : Int) = w := by
  simp [u32]

/-- The two port words of an encoded rate are that rate (rule R76). -/
theorem rateWord_split (w : Rate) : rateWord (w.extractLsb' 0 32) (w.extractLsb' 32 32) = w := by
  show BitVec.append _ _ = _
  apply BitVec.eq_of_getLsbD_eq
  intro i hi
  simp only [BitVec.append_eq, BitVec.getLsbD_append, BitVec.getLsbD_extractLsb']
  by_cases h : i < 32
  · simp [h]
  · simp [h, show i - 32 < 32 by omega, show 32 + (i - 32) = i by omega]

/-- Recording a response under a name and replacing the name by its word are the same to every operand. -/
theorem word_record (names : AsmNames) (n : String) (r : Response) (o : AsmOperand) :
    o.word ((n, r) :: names) = (o.resolve n r.r).word names := by
  cases o with
  | literal v => rfl
  | name m =>
    by_cases h : m = n
    · subst h
      simp [AsmOperand.resolve]
    · simp [AsmOperand.resolve, h, List.lookup, beq_false_of_ne h]

end Sys2Proof.Machine
end

