-- ==== Sys2Proof/Laws/Config.lean ====
section
/-!
SUPPORT. The constraints of the configuration, for the names the machine uses.
-/
namespace Sys2Proof.Config

open Sys2Proof.Machine

/-- Rules R103 to R110: a generated table set is legal. -/
theorem gen_legal (rate : Rate) (h : validRate rate = true) : (gen rate).Legal outShift logTol :=
  params.gen_legal rate h

/-- Rule R146: OUT_SHIFT is at most 8. -/
theorem outShift_le : outShift ≤ 8 := params.outShift_le

/-- Rule R201. -/
theorem durFn_monotone (v w : Nat) (hv : v ≤ w) (hw : w ≤ 99) :
    (durFn (BitVec.ofNat 32 v)).toNat ≤ (durFn (BitVec.ofNat 32 w)).toNat :=
  params.durFn_monotone v w hv hw

/-- Rule R204, the range. -/
theorem levFn_range (v : Nat) (h : v ≤ 99) :
    0 < (levFn (BitVec.ofNat 32 v)).toNat ∧ (levFn (BitVec.ofNat 32 v)).toNat ≤ 0x100000 :=
  params.levFn_range v h

/-- Rule R204, monotone. -/
theorem levFn_monotone (v w : Nat) (hv : v ≤ w) (hw : w ≤ 99) :
    (levFn (BitVec.ofNat 32 v)).toNat ≤ (levFn (BitVec.ofNat 32 w)).toNat :=
  params.levFn_monotone v w hv hw

/-- Rule R207. -/
theorem pitFn_monotone (scale : Word) (v w : Nat) (hv : v ≤ w) (hw : w ≤ 99) :
    (pitFn (BitVec.ofNat 32 v) scale).toNat ≤ (pitFn (BitVec.ofNat 32 w) scale).toNat :=
  params.pitFn_monotone scale v w hv hw

end Sys2Proof.Config
end

