-- ==== Sys2Proof/Laws/State.lean ====
section
/-!
SUPPORT. What each update of the state does to each field, so that no later proof unfolds a record update.
-/
namespace Sys2Proof.Machine

section
variable (s : State)

/-! ## respond -/

@[simp] theorem respond_tables (v : Word) (c : Code) : (respond v c s).tables = s.tables := rfl
@[simp] theorem respond_fault (v : Word) (c : Code) : (respond v c s).fault = s.fault := rfl
@[simp] theorem respond_fcause (v : Word) (c : Code) : (respond v c s).fcause = s.fcause := rfl
@[simp] theorem respond_busy (v : Word) (c : Code) : (respond v c s).busy = s.busy := rfl
@[simp] theorem respond_inflight (v : Word) (c : Code) : (respond v c s).inflight = s.inflight := rfl
@[simp] theorem respond_rsp (v : Word) (c : Code) : (respond v c s).rsp = some ⟨v, c⟩ := rfl
@[simp] theorem respond_answers (v : Word) (c : Code) : (respond v c s).answers = s.answers := rfl
@[simp] theorem respond_inputs (v : Word) (c : Code) : (respond v c s).inputs = s.inputs := rfl

/-! ## raiseFault -/

@[simp] theorem raiseFault_tables (cause : Cause) : (raiseFault cause s).tables = s.tables := rfl
@[simp] theorem raiseFault_fault (cause : Cause) : (raiseFault cause s).fault = true := rfl
@[simp] theorem raiseFault_fcause (cause : Cause) : (raiseFault cause s).fcause = (if s.fault then s.fcause else cause.code) := rfl
@[simp] theorem raiseFault_busy (cause : Cause) : (raiseFault cause s).busy = s.busy := rfl
@[simp] theorem raiseFault_inflight (cause : Cause) : (raiseFault cause s).inflight = s.inflight := rfl
@[simp] theorem raiseFault_rsp (cause : Cause) : (raiseFault cause s).rsp = some ⟨0#32, cause.code⟩ := rfl
@[simp] theorem raiseFault_answers (cause : Cause) : (raiseFault cause s).answers = s.answers := rfl
@[simp] theorem raiseFault_inputs (cause : Cause) : (raiseFault cause s).inputs = s.inputs := rfl

/-! ## installTables -/

@[simp] theorem installTables_tables (rate : Rate) : (installTables rate s).tables = some (Config.gen rate) := rfl
@[simp] theorem installTables_fault (rate : Rate) : (installTables rate s).fault = s.fault := rfl
@[simp] theorem installTables_fcause (rate : Rate) : (installTables rate s).fcause = s.fcause := rfl
@[simp] theorem installTables_busy (rate : Rate) : (installTables rate s).busy = false := rfl
@[simp] theorem installTables_inflight (rate : Rate) : (installTables rate s).inflight = s.inflight := rfl
@[simp] theorem installTables_rsp (rate : Rate) : (installTables rate s).rsp = s.rsp := rfl
@[simp] theorem installTables_answers (rate : Rate) : (installTables rate s).answers = s.answers := rfl
@[simp] theorem installTables_inputs (rate : Rate) : (installTables rate s).inputs = s.inputs := rfl

/-! ## dropTables -/

@[simp] theorem dropTables_tables : (dropTables s).tables = none := rfl
@[simp] theorem dropTables_fault : (dropTables s).fault = s.fault := rfl
@[simp] theorem dropTables_fcause : (dropTables s).fcause = s.fcause := rfl
@[simp] theorem dropTables_busy : (dropTables s).busy = s.busy := rfl
@[simp] theorem dropTables_inflight : (dropTables s).inflight = s.inflight := rfl
@[simp] theorem dropTables_rsp : (dropTables s).rsp = s.rsp := rfl
@[simp] theorem dropTables_answers : (dropTables s).answers = s.answers := rfl
@[simp] theorem dropTables_inputs : (dropTables s).inputs = s.inputs := rfl

/-! ## accept -/

@[simp] theorem accept_tables (p : Port) (c : Command) : (accept p c s).tables = s.tables := rfl
@[simp] theorem accept_fault (p : Port) (c : Command) : (accept p c s).fault = s.fault := rfl
@[simp] theorem accept_fcause (p : Port) (c : Command) : (accept p c s).fcause = s.fcause := rfl
@[simp] theorem accept_busy (p : Port) (c : Command) : (accept p c s).busy = buildsTables c := rfl
@[simp] theorem accept_inflight (p : Port) (c : Command) : (accept p c s).inflight = some ⟨p, c⟩ := rfl
@[simp] theorem accept_rsp (p : Port) (c : Command) : (accept p c s).rsp = s.rsp := rfl
@[simp] theorem accept_answers (p : Port) (c : Command) : (accept p c s).answers = s.answers := rfl
@[simp] theorem accept_inputs (p : Port) (c : Command) : (accept p c s).inputs = s.inputs := rfl

/-! ## post -/

@[simp] theorem post_tables (p : Port) : (post p s).tables = s.tables := rfl
@[simp] theorem post_fault (p : Port) : (post p s).fault = s.fault := rfl
@[simp] theorem post_fcause (p : Port) : (post p s).fcause = s.fcause := rfl
@[simp] theorem post_busy (p : Port) : (post p s).busy = s.busy := rfl
@[simp] theorem post_inflight (p : Port) : (post p s).inflight = none := rfl
@[simp] theorem post_rsp (p : Port) : (post p s).rsp = none := rfl
@[simp] theorem post_answers (p : Port) : (post p s).answers = s.answers ++ (s.rsp.map (fun x => (⟨p, x⟩ : Answer))).toList := rfl
@[simp] theorem post_inputs (p : Port) : (post p s).inputs = s.inputs := rfl

/-! ## deliver -/

@[simp] theorem deliver_tables (p : Port) : (deliver p s).tables = s.tables := rfl
@[simp] theorem deliver_fault (p : Port) : (deliver p s).fault = s.fault := rfl
@[simp] theorem deliver_fcause (p : Port) : (deliver p s).fcause = s.fcause := rfl
@[simp] theorem deliver_busy (p : Port) : (deliver p s).busy = s.busy := rfl
@[simp] theorem deliver_inflight (p : Port) : (deliver p s).inflight = s.inflight := rfl
@[simp] theorem deliver_rsp (p : Port) : (deliver p s).rsp = s.rsp := rfl
@[simp] theorem deliver_answers (p : Port) : (deliver p s).answers = s.answers.eraseP (fun x => x.port = p) := rfl
@[simp] theorem deliver_inputs (p : Port) : (deliver p s).inputs = s.inputs := rfl

/-! ## assertReset -/

@[simp] theorem assertReset_tables : (assertReset s).tables = none := rfl
@[simp] theorem assertReset_fault : (assertReset s).fault = false := rfl
@[simp] theorem assertReset_fcause : (assertReset s).fcause = 0#4 := rfl
@[simp] theorem assertReset_busy : (assertReset s).busy = false := rfl
@[simp] theorem assertReset_inflight : (assertReset s).inflight = none := rfl
@[simp] theorem assertReset_rsp : (assertReset s).rsp = none := rfl
@[simp] theorem assertReset_answers : (assertReset s).answers = [] := rfl
@[simp] theorem assertReset_inputs : (assertReset s).inputs = s.inputs := rfl

/-! ## placeCommand -/

@[simp] theorem placeCommand_tables (c : Command) : (placeCommand c s).tables = s.tables := rfl
@[simp] theorem placeCommand_fault (c : Command) : (placeCommand c s).fault = s.fault := rfl
@[simp] theorem placeCommand_fcause (c : Command) : (placeCommand c s).fcause = s.fcause := rfl
@[simp] theorem placeCommand_busy (c : Command) : (placeCommand c s).busy = buildsTables c := rfl
@[simp] theorem placeCommand_inflight (c : Command) : (placeCommand c s).inflight = some ⟨firstPort, c⟩ := rfl
@[simp] theorem placeCommand_rsp (c : Command) : (placeCommand c s).rsp = s.rsp := rfl
@[simp] theorem placeCommand_answers (c : Command) : (placeCommand c s).answers = s.answers := rfl
@[simp] theorem placeCommand_inputs (c : Command) : (placeCommand c s).inputs = .clock :: s.inputs := rfl

/-! ## reset -/

@[simp] theorem reset_tables : State.reset.tables = none := rfl
@[simp] theorem reset_fault : State.reset.fault = false := rfl
@[simp] theorem reset_fcause : State.reset.fcause = 0#4 := rfl
@[simp] theorem reset_busy : State.reset.busy = false := rfl
@[simp] theorem reset_inflight : State.reset.inflight = none := rfl
@[simp] theorem reset_rsp : State.reset.rsp = none := rfl
@[simp] theorem reset_answers : State.reset.answers = [] := rfl
@[simp] theorem reset_inputs : State.reset.inputs = [] := rfl

end

end Sys2Proof.Machine
end

