-- ==== Sys2Proof/Laws/Ops.lean ====
section
/-!
SUPPORT. What each shared operation can do, said once: the meanings' `complete`, `query` and `raiseFault`, and the block's
`work` and `react`.
-/
namespace Sys2Proof.Machine

/-- A completing command answers a next state that differs in the response alone. -/
theorem complete_eq_next (v : Word) (s : State) :
    complete v s = .next { s with rsp := some ⟨v, rsOk⟩ } := rfl

/-- With a table set present, a query completes with the value computed from it. -/
theorem query_of_tables (f : TableSet → Word) (s : State) (t : TableSet) (h : s.tables = some t) :
    query f s = complete (f t) s := by
  simp [query, h]

/-- Without a table set, a query faults NOT_INITIALISED. -/
theorem query_of_no_tables (f : TableSet → Word) (s : State) (h : s.tables = none) :
    query f s = .next (raiseFault .notInitialised s) := by
  simp [query, h]

/-- A query answers a next state, one of two. -/
theorem query_cases (f : TableSet → Word) (s : State) :
    (s.tables = none ∧ query f s = .next (raiseFault .notInitialised s)) ∨
      ∃ t, s.tables = some t ∧ query f s = complete (f t) s := by
  cases h : s.tables with
  | none => exact .inl ⟨rfl, query_of_no_tables f s h⟩
  | some t => exact .inr ⟨t, rfl, query_of_tables f s t h⟩

/-- INIT answers a next state, one of two. -/
theorem execInit_cases (a b : Word) (s : State) :
    (validRate (rateWord a b) = true ∧
        execInit a b s = complete 0#32 (installTables (rateWord a b) s)) ∨
      (validRate (rateWord a b) = false ∧ execInit a b s = .next (raiseFault .badRate (dropTables s))) := by
  cases h : validRate (rateWord a b) with
  | true => exact .inl ⟨rfl, by simp [execInit, h]⟩
  | false => exact .inr ⟨rfl, by simp [execInit, h]⟩

/-- The first fault since reset sets the cause. -/
theorem raiseFault_fcause_first (cause : Cause) (s : State) (h : s.fault = false) :
    (raiseFault cause s).fcause = cause.code := by
  simp [h]

/-- A later fault keeps the cause. -/
theorem raiseFault_fcause_later (cause : Cause) (s : State) (h : s.fault = true) :
    (raiseFault cause s).fcause = s.fcause := by
  simp [h]

/-- What a command can give as a next state: it answers OK and changes nothing else, or it faults and changes nothing
else, or it is an INIT with a valid or with a bad rate. -/
theorem exec_cases (i : Instr) (s t : State) (h : exec i s = .next t) :
    ((∀ a b, i ≠ .init a b) ∧ ∃ v, t = respond v rsOk s) ∨
    ((∀ a b, i ≠ .init a b) ∧ ∃ c, c ≠ Cause.badRate ∧ t = raiseFault c s) ∨
    (∃ a b, i = .init a b ∧ validRate (rateWord a b) = true ∧
      t = respond 0#32 rsOk (installTables (rateWord a b) s)) ∨
    (∃ a b, i = .init a b ∧ validRate (rateWord a b) = false ∧ t = raiseFault .badRate (dropTables s)) := by
  cases i with
  | init a b =>
    rcases execInit_cases a b s with ⟨hv, he⟩ | ⟨hv, he⟩ <;>
      simp only [exec, he, complete, Host.Outcome.next.injEq] at h
    · exact .inr (.inr (.inl ⟨a, b, rfl, hv, h.symm⟩))
    · exact .inr (.inr (.inr ⟨a, b, rfl, hv, h.symm⟩))
  | logsin a b | log a b | exp a b | output a b | pitch a b | scale a b =>
    simp only [exec, execLogsin, execLog, execExp, execOutput, execPitch, execScale, query] at h
    split at h <;> simp only [complete, Host.Outcome.next.injEq] at h
    · exact .inr (.inl ⟨by simp, _, by decide, h.symm⟩)
    · exact .inl ⟨by simp, _, h.symm⟩
  | durp a b | levp a b | pitp a b | rdstat a b =>
    simp only [exec, execDurp, execLevp, execPitp, execRdstat, complete, Host.Outcome.next.injEq] at h
    exact .inl ⟨by simp, _, h.symm⟩
  | reserved c a b =>
    simp only [exec, execReserved, Host.Outcome.next.injEq] at h
    exact .inr (.inl ⟨by simp, _, by decide, h.symm⟩)

/-- A command builds tables just when it decodes to an INIT with a valid rate. -/
theorem buildsTables_iff (c : Command) :
    buildsTables c = true ↔ ∃ a b, decode c = .init a b ∧ validRate (rateWord a b) = true := by
  unfold buildsTables
  split
  · next a b h =>
    refine ⟨fun hv => ⟨a, b, h, hv⟩, fun ⟨a', b', he, hv⟩ => ?_⟩
    rw [h] at he
    cases he
    exact hv
  · next h =>
    exact ⟨fun hf => absurd hf (by decide), fun ⟨a', b', he, _⟩ => absurd he (h a' b')⟩

/-- Idle, the block holds its state. -/
theorem work_of_idle (s : State) (h : s.inflight = none) : work s = .next s := by
  simp [work, h]

/-- With a command in flight that answers `t`, the block posts the response. -/
theorem work_of_next (s t : State) (q : Request) (h : s.inflight = some q)
    (he : exec (decode q.command) s = .next t) : work s = .next (post q.port t) := by
  simp [work, h, he]

/-- Posting adds the response to its own port's, at the end, and leaves every other port. -/
theorem answersAt_post (p q : Port) (r : Response) (s : State) (h : s.rsp = some r) :
    (post q s).answersAt p = s.answersAt p ++ (if q = p then [r] else []) := by
  by_cases hp : q = p <;> simp [State.answersAt, post, h, hp]

/-- The responses of one port after the first response of another port, or its own, is dropped from the list. -/
theorem answersAt_eraseP (l : List Answer) (p q : Port) :
    ((l.eraseP (fun x => x.port = q)).filter (fun x => x.port = p)).map Answer.response =
      if q = p then ((l.filter (fun x => x.port = p)).map Answer.response).tail
      else (l.filter (fun x => x.port = p)).map Answer.response := by
  induction l with
  | nil => simp
  | cons x l ih =>
    by_cases hx : x.port = q
    · by_cases hp : q = p <;> simp [hx, hp]
    · by_cases hxp : x.port = p
      · have hp : q ≠ p := fun h => hx (hxp.trans h.symm)
        rw [if_neg hp] at ih ⊢
        simp [hxp, hp.symm, ih]
      · split at ih <;> simp_all

/-- Delivering drops the oldest response of its own port and leaves every other port. -/
theorem answersAt_deliver (p q : Port) (s : State) :
    (deliver q s).answersAt p = if q = p then (s.answersAt p).tail else s.answersAt p :=
  answersAt_eraseP s.answers p q

/-- rsp_valid says that a response waits at the port. -/
theorem rspValid_iff (s : State) (p : Port) : s.rspValid p = true ↔ s.answersAt p ≠ [] := by
  simp [State.rspValid, State.answersAt]

/-- What the block's work can give as a next state. -/
theorem work_cases (s s' : State) (h : work s = .next s') :
    (s.inflight = none ∧ s' = s) ∨
      ∃ q t, s.inflight = some q ∧ exec (decode q.command) s = .next t ∧ s' = post q.port t := by
  cases hq : s.inflight with
  | none =>
    rw [work_of_idle s hq] at h
    exact .inl ⟨rfl, (Host.Outcome.next.inj h).symm⟩
  | some q =>
    simp only [work, hq] at h
    split at h
    · next t ht => exact .inr ⟨q, t, rfl, ht, (Host.Outcome.next.inj h).symm⟩
    · exact absurd h (by simp)
    · exact absurd h (by simp)

/-- What a step can give as a next state. -/
theorem step_cases (s s' : State) (h : step s = .next s') :
    (s.inputs = [] ∧ work s = .next s') ∨
    (∃ rest, s.inputs = .clock :: rest ∧ work { s with inputs := rest } = .next s') ∨
    (∃ p c rest, s.inputs = .command p c :: rest ∧ s.cmdReady = true ∧
      s' = accept p c { s with inputs := rest }) ∨
    (∃ p c rest, s.inputs = .command p c :: rest ∧ s.cmdReady = false ∧ work s = .next s') ∨
    (∃ p rest, s.inputs = .take p :: rest ∧ s' = deliver p { s with inputs := rest }) ∨
    (∃ rest, s.inputs = .reset :: rest ∧ s' = assertReset { s with inputs := rest }) := by
  unfold step react at h
  split at h
  · next hi => exact .inl ⟨hi, h⟩
  · next rest hi => exact .inr (.inl ⟨rest, hi, h⟩)
  · next p c rest hi =>
    split at h
    · next hr => exact .inr (.inr (.inl ⟨p, c, rest, hi, hr, (Host.Outcome.next.inj h).symm⟩))
    · next hr => exact .inr (.inr (.inr (.inl ⟨p, c, rest, hi, by simpa using hr, h⟩)))
  · next p rest hi =>
    exact .inr (.inr (.inr (.inr (.inl ⟨p, rest, hi, (Host.Outcome.next.inj h).symm⟩))))
  · next rest hi =>
    exact .inr (.inr (.inr (.inr (.inr ⟨rest, hi, (Host.Outcome.next.inj h).symm⟩))))

end Sys2Proof.Machine
end

