-- ==== Sys2Proof/Laws/PerInstr.lean ====
section
/-!
SUPPORT. A family of statements about the instruction as syntax: the CMD word of its row of the opcode map (rule R72), and
that the encoder puts its operands on the ports unchanged (rule R75).
-/
namespace Sys2Proof.Laws.OpcodeRow

/-- The CMD column of rule R72; a reserved row has its own word. -/
def cmdWord : Instr → Nat
  | .init _ _ => 0x1
  | .logsin _ _ => 0x2
  | .log _ _ => 0x3
  | .exp _ _ => 0x4
  | .output _ _ => 0x5
  | .pitch _ _ => 0x6
  | .scale _ _ => 0x7
  | .durp _ _ => 0x8
  | .levp _ _ => 0x9
  | .pitp _ _ => 0xA
  | .rdstat _ _ => 0xB
  | .reserved cmd _ _ => cmd.toNat

/-- A well-formed instruction is encoded by its row's word, which is reserved exactly for the reserved row. -/
def Statement (i : Instr) : Prop :=
  i.wf = true → (encode i).cmd.toNat = cmdWord i ∧
    (reservedWord (encode i).cmd = true ↔ ∃ cmd a b, i = .reserved cmd a b)

theorem init (a b : Word) : Statement (.init a b) := fun _ => ⟨rfl, by simp [encode, reservedWord]⟩
theorem logsin (a b : Word) : Statement (.logsin a b) := fun _ => ⟨rfl, by simp [encode, reservedWord]⟩
theorem log (a b : Word) : Statement (.log a b) := fun _ => ⟨rfl, by simp [encode, reservedWord]⟩
theorem exp (a b : Word) : Statement (.exp a b) := fun _ => ⟨rfl, by simp [encode, reservedWord]⟩
theorem output (a b : Word) : Statement (.output a b) := fun _ => ⟨rfl, by simp [encode, reservedWord]⟩
theorem pitch (a b : Word) : Statement (.pitch a b) := fun _ => ⟨rfl, by simp [encode, reservedWord]⟩
theorem scale (a b : Word) : Statement (.scale a b) := fun _ => ⟨rfl, by simp [encode, reservedWord]⟩
theorem durp (a b : Word) : Statement (.durp a b) := fun _ => ⟨rfl, by simp [encode, reservedWord]⟩
theorem levp (a b : Word) : Statement (.levp a b) := fun _ => ⟨rfl, by simp [encode, reservedWord]⟩
theorem pitp (a b : Word) : Statement (.pitp a b) := fun _ => ⟨rfl, by simp [encode, reservedWord]⟩
theorem rdstat (a b : Word) : Statement (.rdstat a b) := fun _ => ⟨rfl, by simp [encode, reservedWord]⟩
theorem reserved (cmd a b : Word) : Statement (.reserved cmd a b) :=
  fun h => ⟨rfl, fun _ => ⟨cmd, a, b, rfl⟩, fun _ => h⟩

end Sys2Proof.Laws.OpcodeRow
end

