-- ==== Sys2Proof/Tests/Slice0.lean ====
section
/-!
SUPPORT. Tests: expected values are those of spec/95_test_vectors.md, or written out by hand from the rules. Then, for
every obligation with hypotheses, a witness that meets them.
-/
namespace Sys2Proof.Tests

open Sys2Proof Sys2Proof.Machine

/-! ## WellFormed: the one check, with a term it refuses and the boundary words it accepts -/

theorem test_wf_refuses_assigned_word : (Instr.reserved 0x00000004#32 0#32 0#32).wf = false := by decide
theorem test_wf_refuses_last_assigned_word : (Instr.reserved 0x0000000B#32 0#32 0#32).wf = false := by decide
theorem test_wf_accepts_reserved_words :
    (Instr.reserved 0x0#32 0#32 0#32).wf = true ∧ (Instr.reserved 0xC#32 0#32 0#32).wf = true ∧
      (Instr.reserved 0xF#32 0#32 0#32).wf = true ∧ (Instr.reserved 0x14#32 0#32 0#32).wf = true := by decide

/-! ## Decode: the words of rule R72's table and of 95_test_vectors.md section 2.1 -/

theorem test_decode_init :
    decode ⟨0b00000000000000000000000000000001#32, 0x00000000#32, 0x40E58880#32⟩ = .init 0x00000000#32 0x40E58880#32 := by
  decide
theorem test_decode_logsin :
    decode ⟨0b00000000000000000000000000000010#32, 0x12345#32, 7#32⟩ = .logsin 0x12345#32 7#32 := by decide
theorem test_decode_log : decode ⟨0b00000000000000000000000000000011#32, 1000#32, 0#32⟩ = .log 1000#32 0#32 := by decide
theorem test_decode_exp : decode ⟨0b00000000000000000000000000000100#32, 5#32, 0#32⟩ = .exp 5#32 0#32 := by decide
theorem test_decode_output : decode ⟨0b00000000000000000000000000000101#32, 5#32, 6#32⟩ = .output 5#32 6#32 := by decide
theorem test_decode_pitch : decode ⟨0b00000000000000000000000000000110#32, 5#32, 0#32⟩ = .pitch 5#32 0#32 := by decide
theorem test_decode_scale : decode ⟨0b00000000000000000000000000000111#32, 5#32, 0#32⟩ = .scale 5#32 0#32 := by decide
theorem test_decode_durp : decode ⟨0b00000000000000000000000000001000#32, 50#32, 0#32⟩ = .durp 50#32 0#32 := by decide
theorem test_decode_levp : decode ⟨0b00000000000000000000000000001001#32, 99#32, 0#32⟩ = .levp 99#32 0#32 := by decide
theorem test_decode_pitp : decode ⟨0b00000000000000000000000000001010#32, 50#32, 7#32⟩ = .pitp 50#32 7#32 := by decide
theorem test_decode_rdstat : decode ⟨0b00000000000000000000000000001011#32, 0#32, 0#32⟩ = .rdstat 0#32 0#32 := by decide
theorem test_decode_reserved_op : decode ⟨0x0000000C#32, 0#32, 0#32⟩ = .reserved 0xC#32 0#32 0#32 := by decide
theorem test_decode_reserved_bits : decode ⟨0x80000004#32, 0#32, 0#32⟩ = .reserved 0x80000004#32 0#32 0#32 := by decide
/-- The second word is A and the third is B. -/
theorem test_word_order : commandOfBits 96 0x000000030000000200000001 = ⟨1#32, 2#32, 3#32⟩ := by decide

/-! ## A start state: configuration H of 95_test_vectors.md section 2, its named entries only -/

/-- The named entries of H's EXT; 0x219 is one value with `EXT[0x219] >> 13 = 1000`. -/
def demoExt (i : Fin 16384) : Word :=
  if i.val = 0 then 0x7FFFFF#32 else if i.val = 5 then 0x7FF911#32 else if i.val = 6 then 0x7FF7AE#32
  else if i.val = 0x219 then 0x7D0000#32 else if i.val = 0x3FFF then 0x4000B1#32 else 0x600000#32

/-- The named entries of H's SCT. -/
def demoSct (i : Fin 12) : Word :=
  if i.val = 1 then 341#32 else if i.val = 7 then 2389#32 else if i.val = 8 then 2731#32 else 0#32

/-- The named entries of H. -/
def demo : TableSet where
  lst := .ofFn (fun i => if i.val = 0x800 then 0x4000#32 else 9#32)
  ext := .ofFn demoExt
  lgt := .ofFn (fun i => if i.val = 1000 then 0x34219#32 else 0#32)
  ntt := .ofFn (fun i => if i.val = 0 then 0x01000000#32 else 0x01800001#32)
  sct := .ofFn demoSct

/-- The block with those tables and no fault. -/
def demoState : State := { State.reset with tables := some demo }

/-- The entry of an array given by a function. -/
theorem get_ofFn (n : Nat) (f : Fin n → Word) (i : Fin n) : (Vector.ofFn f).get i = f i := by
  simp [Vector.get]
  rfl

theorem demo_lst (i : Fin 16384) : readLst demo i = if i.val = 0x800 then 0x4000#32 else 9#32 := get_ofFn _ _ i
theorem demo_ext (i : Fin 16384) : readExt demo i = demoExt i := get_ofFn _ _ i
theorem demo_lgt (i : Fin 16384) : readLgt demo i = if i.val = 1000 then 0x34219#32 else 0#32 := get_ofFn _ _ i
theorem demo_ntt (i : Fin 4096) : readNtt demo i = if i.val = 0 then 0x01000000#32 else 0x01800001#32 := get_ofFn _ _ i
theorem demo_sct (i : Fin 12) : readSct demo i = demoSct i := get_ofFn _ _ i

/-! ## LOGSIN, LOG (section 2.2), EXP (section 2.3), OUTPUT (section 2.4) -/

theorem test_logsin_masks : exec (.logsin 0x00010800#32 5#32) demoState = .next (answering 0x00004000#32 demoState) := by
  have h : readLst demo (index14 0x00010800#32) = 0x00004000#32 := by rw [demo_lst]; decide
  rw [← h]
  rfl

theorem test_log_masks : exec (.log 0x000043E8#32 0#32) demoState = .next (answering 0x00034219#32 demoState) := by
  have h : readLgt demo (index14 0x000043E8#32) = 0x00034219#32 := by rw [demo_lgt]; decide
  rw [← h]
  rfl

theorem test_exp_shifts : exec (.exp 0x00004005#32 0#32) demoState = .next (answering 0x003FFC88#32 demoState) := by
  have h : expCore demo 0x00004005#32 = 0x003FFC88#32 := by unfold expCore; rw [demo_ext]; decide
  rw [← h]
  rfl

/-- The shift is clamped at 0 for a negative l and at 31 for a large one; 13 gives back 1000; 22 leaves one bit. -/
theorem test_exp_core_clamps :
    expCore demo 0xFFFFFFFF#32 = 0x004000B1#32 ∧ expCore demo 0x80000000#32 = 0x007FFFFF#32 ∧
      expCore demo 0x00080000#32 = 0#32 ∧ expCore demo 0x00034219#32 = 1000#32 ∧ expCore demo 0x00058000#32 = 1#32 := by
  simp only [expCore, demo_ext]
  decide

/-- Envelopes EG_MIN, 0 and EG_MAX, at the spec's default OUT_SHIFT. -/
theorem test_output_levels (h : Config.outShift = 8) :
    outputValue demo 0#32 0xFF800000#32 = 0x00007F00#32 ∧ outputValue demo 0#32 0#32 = 0x007FFF00#32 ∧
      outputValue demo 0#32 0x007FFFFF#32 = 0x7FFFFF00#32 ∧ outputValue demo 5#32 0x007FFFC0#32 = 0x7FF7AE00#32 := by
  simp only [outputValue, expCore, demo_ext, h]
  decide

/-- The sum wraps to a negative l. -/
theorem test_output_wraps (h : Config.outShift = 8) :
    exec (.output 0x7FFFFFFF#32 0#32) demoState = .next (answering 0x4000B100#32 demoState) := by
  have e : outputValue demo 0x7FFFFFFF#32 0#32 = 0x4000B100#32 := by
    simp only [outputValue, expCore, demo_ext, h]
    decide
  rw [← e]
  rfl

/-! ## PITCH (section 2.5), SCALE (section 2.6) -/

theorem test_pitch_down : exec (.pitch 0xFFFFF000#32 0#32) demoState = .next (answering 0x00800000#32 demoState) := by
  have h : pitchValue demo 0xFFFFF000#32 = 0x00800000#32 := by simp only [pitchValue, demo_ntt]; decide
  rw [← h]
  rfl

theorem test_pitch_edges :
    pitchValue demo 0x00007000#32 = 0x80000000#32 ∧ pitchValue demo 0x00008000#32 = 0#32 ∧
      pitchValue demo 0x00020000#32 = 0#32 ∧ pitchValue demo 0xFFFE0000#32 = 0#32 ∧
      pitchValue demo 0x7FFFFFFF#32 = 0#32 ∧ pitchValue demo 0x80000000#32 = 0#32 ∧
      pitchValue demo 0xFFFFFFFF#32 = 0x00C00000#32 := by
  simp only [pitchValue, demo_ntt]
  decide

theorem test_scale_negates : exec (.scale 0xFFFFFFF3#32 0#32) demoState = .next (answering 0xFFFFEEAB#32 demoState) := by
  have h : scaleValue demo 0xFFFFFFF3#32 = 0xFFFFEEAB#32 := by simp only [scaleValue, demo_sct]; decide
  rw [← h]
  rfl

theorem test_scale_edges :
    scaleValue demo 12#32 = 0x00001000#32 ∧ scaleValue demo 0xFFFFFFFF#32 = 0xFFFFFEAB#32 ∧
      scaleValue demo 0x7FFFFFFF#32 = 0xAAAAA955#32 ∧ scaleValue demo 0x80000000#32 = 0x55555555#32 := by
  simp only [scaleValue, demo_sct]
  decide

/-! ## INIT (section 2.7) -/

theorem test_valid_rates :
    validRate (rateWord 0x00000000#32 0x40E58880#32) = true ∧ validRate (rateWord 0x00000000#32 0x40E77000#32) = true ∧
      validRate (rateWord 0x00000001#32 0x00000000#32) = true := by decide

theorem test_bad_rates :
    validRate (rateWord 0#32 0x00000000#32) = false ∧ validRate (rateWord 0#32 0x80000000#32) = false ∧
      validRate (rateWord 0#32 0xC0E58880#32) = false ∧ validRate (rateWord 0#32 0x7FF00000#32) = false ∧
      validRate (rateWord 0#32 0x7FF80000#32) = false := by decide

/-! ## DURP, LEVP, PITP (section 2.8) -/

theorem test_durp_before_init :
    exec (.durp 50#32 0#32) State.reset = .next (answering (Config.durFn 50#32) State.reset) := rfl
theorem test_levp_range : 1 ≤ (Config.levFn 99#32).toNat ∧ (Config.levFn 99#32).toNat ≤ 0x100000 :=
  Config.levFn_range 99 (by decide)
theorem test_pitp_before_init :
    exec (.pitp 50#32 7#32) State.reset = .next (answering (Config.pitFn 50#32 7#32) State.reset) := rfl

/-! ## Faults and RDSTAT (section 2.9): the STATUS word after the command -/

/-- The STATUS word after a command, all ones if it has no next state. -/
def statusAfter (i : Instr) (s : State) : Word :=
  match exec i s with
  | .next t => t.status
  | .fault _ => BitVec.allOnes 32
  | .refused _ => BitVec.allOnes 32

theorem test_status_not_initialised : statusAfter (.exp 0#32 0#32) State.reset = 0x00000022#32 := by decide
theorem test_status_illegal : statusAfter (.reserved 0#32 0#32 0#32) State.reset = 0x00000012#32 := by decide
theorem test_status_bad_rate : statusAfter (.init 0#32 0#32) State.reset = 0x00000032#32 := by decide
theorem test_status_good_rate : statusAfter (.init 0#32 0x40E58880#32) State.reset = 0x00000001#32 := by decide
/-- The first cause stays. -/
theorem test_status_keeps_first_cause :
    statusAfter (.init 0#32 0#32) { State.reset with fault := true, fcause := 2#4 } = 0x00000022#32 := by decide
theorem test_rdstat_after_recovery :
    exec (.rdstat 0#32 0#32) { demoState with fault := true, fcause := 2#4 } =
      .next (answering 0x00000023#32 { demoState with fault := true, fcause := 2#4 }) := rfl

/-! ## The step -/

/-- From reset the next step runs the placed command: EXP faults NOT_INITIALISED and its response waits at the port. -/
theorem test_placed_exp_runs :
    step (State.reset.withFetchWord 32 0x4) =
      .next { State.reset with fault := true, fcause := 2#4, answers := [⟨firstPort, ⟨0#32, 2#4⟩⟩] } := rfl
/-- An accepted INIT with a valid rate sets BUSY, one with a bad rate does not. -/
theorem test_busy_on_acceptance :
    (accept firstPort ⟨1#32, 0#32, 0x40E58880#32⟩ State.reset).busy = true ∧
      (accept firstPort ⟨1#32, 0#32, 0#32⟩ State.reset).busy = false := by decide
/-- Reset abandons the command in flight and keeps what is not yet issued. -/
theorem test_reset_abandons :
    step { demoState with inflight := some ⟨firstPort, ⟨4#32, 0#32, 0#32⟩⟩, inputs := [.reset, .clock] } =
      .next { State.reset with inputs := [.clock] } := rfl

/-! ## The assembler notation (sections 2.7 and 3) -/

theorem test_assemble_init :
    AsmCommand.assemble [] (.init ⟨false, 441000, 1⟩) = some ⟨1#32, 0x00000000#32, 0x40E58880#32⟩ := by decide
theorem test_real_literals :
    RealLiteral.encode ⟨false, 480000, 1⟩ = 0x40E7700000000000#64 ∧ RealLiteral.encode ⟨true, 0, 1⟩ = 0x8000000000000000#64 ∧
      RealLiteral.encode ⟨true, 441000, 1⟩ = 0xC0E5888000000000#64 := by decide
theorem test_assemble_negative : AsmCommand.assemble [] (.scale (.literal (-13))) = some ⟨7#32, 0xFFFFFFF3#32, 0#32⟩ := by
  decide
theorem test_assemble_output :
    AsmCommand.assemble [] (.output (.literal 0x4000) (.literal (-0x800000))) = some ⟨5#32, 0x4000#32, 0xFF800000#32⟩ := by
  decide

/-! ## Witnesses: every obligation's hypotheses are met together by something -/

/-- The encoding of 44100.0 (rule R76). -/
def rate44100 : Rate := rateWord 0x00000000#32 0x40E58880#32

/-- A block whose tables were built at 44100.0. -/
def ready : State := { State.reset with tables := some (Config.gen rate44100) }

/-- A block that has accepted an INIT, with an EXP offered. -/
def busyState : State :=
  { State.reset with
    busy := true
    inflight := some ⟨firstPort, ⟨1#32, 0x00000000#32, 0x40E58880#32⟩⟩
    inputs := [.command firstPort ⟨4#32, 0#32, 0#32⟩] }

/-- A block with an EXP in flight. -/
def flying : State := { ready with inflight := some ⟨firstPort, ⟨4#32, 0#32, 0#32⟩⟩ }

theorem witness_inv_reset : State.reset.Inv := by
  constructor <;> simp

theorem witness_inv_ready : ready.Inv ∧ ready.ready = true ∧ ready.tables = some (Config.gen rate44100) := by
  refine ⟨?_, rfl, rfl⟩
  constructor
  · exact fun _ => rfl
  · exact fun h => absurd h (by decide)
  · exact fun t h => ⟨rate44100, by decide, (Option.some.inj h).symm⟩
  · exact ⟨fun h => absurd h (by decide), fun ⟨q, hq, _⟩ => absurd hq (by simp [ready])⟩
  · rfl
  · exact fun x hx => absurd hx (by simp [ready])

theorem witness_inv_busy : busyState.Inv ∧ busyState.busy = true ∧
    busyState.inputs = .command firstPort ⟨4#32, 0#32, 0#32⟩ :: [] := by
  refine ⟨?_, rfl, rfl⟩
  constructor
  · exact fun _ => rfl
  · exact fun h => absurd h (by decide)
  · exact fun t h => absurd h (by simp [busyState])
  · exact ⟨fun _ => ⟨_, rfl, by decide⟩, fun _ => rfl⟩
  · rfl
  · exact fun x hx => absurd hx (by simp [busyState])

theorem witness_AssertingResetGivesTheResetState :
    ({ ready with inputs := [.reset, .clock] } : State).inputs = .reset :: [.clock] := rfl
theorem witness_EveryStepKeepsTheInvariant : ready.Inv ∧ step ready = .next ready := ⟨witness_inv_ready.1, rfl⟩
theorem witness_DecodeAndEncodeAreInverse : (Instr.reserved 0xC#32 1#32 2#32).wf = true ∧ (Instr.init 1#32 2#32).wf = true := by
  decide
theorem witness_DecodingFollowsTheOpcodeMap :
    (0x0#32).toNat = 0x0 ∧ (0x1#32).toNat = 0x1 ∧ (0x2#32).toNat = 0x2 ∧ (0x3#32).toNat = 0x3 ∧ (0x4#32).toNat = 0x4 ∧
      (0x5#32).toNat = 0x5 ∧ (0x6#32).toNat = 0x6 ∧ (0x7#32).toNat = 0x7 ∧ (0x8#32).toNat = 0x8 ∧ (0x9#32).toNat = 0x9 ∧
      (0xA#32).toNat = 0xA ∧ (0xB#32).toNat = 0xB ∧ 0xC ≤ (0xC#32).toNat := by decide
/-- The first valid rate and the first bad ones on either side. -/
theorem witness_InitBuildsOrDropsTheTables :
    ((f64 (0#32 ++ 1#32)).isFinite = true ∧ (f64 (0#32 ++ 1#32)).isPositive = true) ∧
      ¬ ((f64 (0#32 ++ 0#32)).isFinite = true ∧ (f64 (0#32 ++ 0#32)).isPositive = true) ∧
      ((f64 (0x7FEFFFFF#32 ++ 0xFFFFFFFF#32)).isFinite = true ∧ (f64 (0x7FEFFFFF#32 ++ 0xFFFFFFFF#32)).isPositive = true) ∧
      ¬ ((f64 (0x7FF00000#32 ++ 0#32)).isFinite = true ∧ (f64 (0x7FF00000#32 ++ 0#32)).isPositive = true) := by decide
theorem witness_PresentTablesAreLegal : ready.Inv ∧ ready.tables = some (Config.gen rate44100) :=
  ⟨witness_inv_ready.1, rfl⟩
theorem witness_BadRateSilencesEveryQuery :
    validRate (rateWord 0#32 0#32) = false ∧
      exec (.init 0#32 0#32) ready = .next (raiseFault .badRate (dropTables ready)) ∧ readsTable (.exp 0#32 0#32) = true :=
  ⟨by decide, rfl, rfl⟩
theorem witness_LogsinReadsTheMaskedEntry :
    ready.tables = some (Config.gen rate44100) ∧ (0 : Fin 16384).val = (0x4000#32 : Word).toNat % 16384 ∧ ready.Inv ∧
      (16383 : Fin 16384).val = (0xFFFFFFFF#32 : Word).toNat % 16384 ∧ State.reset.tables = none :=
  ⟨rfl, by decide, witness_inv_ready.1, by decide, rfl⟩
theorem witness_LogReadsTheMaskedEntry :
    ready.tables = some (Config.gen rate44100) ∧ (1000 : Fin 16384).val = (0x43E8#32 : Word).toNat % 16384 ∧
      State.reset.tables = none := ⟨rfl, by decide, rfl⟩
theorem witness_LogThenExpRecoversTheOperand :
    ready.Inv ∧ ready.ready = true ∧ (1000 : Fin 16384).val = (1000#32 : Word).toNat % 16384 :=
  ⟨witness_inv_ready.1, rfl, by decide⟩
theorem witness_MaskedIndicesAlias : (0x2345#32 : Word).toNat % 16384 = (0x12345#32 : Word).toNat % 16384 := by decide
theorem witness_ExpDecompressesItsOperand :
    ready.tables = some (Config.gen rate44100) ∧ ready.Inv ∧ 0x7C000 ≤ (0x7C000#32 : Word).toNat ∧
      (0x7C000#32 : Word).toNat < 2 ^ 31 ∧ (0 : Fin 16384).val = 0 ∧ State.reset.tables = none :=
  ⟨rfl, witness_inv_ready.1, by decide, by decide, rfl, rfl⟩
theorem witness_ExpIsNonIncreasing :
    ready.Inv ∧ ready.ready = true ∧ (0x3FFF#32 : Word).toNat ≤ (0x4000#32 : Word).toNat ∧
      (0x4000#32 : Word).toNat < 2 ^ 31 ∧
      exec (.exp 0x3FFF#32 0#32) ready = .next (answering (expCore (Config.gen rate44100) 0x3FFF#32) ready) ∧
      exec (.exp 0x4000#32 0#32) ready = .next (answering (expCore (Config.gen rate44100) 0x4000#32) ready) :=
  ⟨witness_inv_ready.1, rfl, by decide, by decide, rfl, rfl⟩
theorem witness_ExpHalvesPerUnitOfExponent :
    ready.Inv ∧ ready.tables = some (Config.gen rate44100) ∧ (0x7BFFF#32 : Word).toNat < 0x7C000 ∧
      2 ^ 31 ≤ (0x80000000#32 : Word).toNat ∧ (0 : Fin 16384).val = (0x80000000#32 : Word).toNat % 16384 :=
  ⟨witness_inv_ready.1, rfl, by decide, by decide, by decide⟩
theorem witness_OutputDecompressesTheAttenuatedSum :
    ready.tables = some (Config.gen rate44100) ∧ ready.Inv ∧
      ((0x8001FFFF#32 : Word).toNat : Int) = ((0x7FFFFFFF#32 : Word).toInt + attenuation (0#32 : Word).toInt / 64) % 2 ^ 32 ∧
      State.reset.tables = none := ⟨rfl, witness_inv_ready.1, by decide, rfl⟩
/-- An envelope for each case, at the edges of EG_MIN and EG_MAX. -/
theorem witness_AttenuationIsClampedAndNonIncreasing :
    (0xFF7FFFFF#32 : Word).toInt < -8388608 ∧ 8388607 < (0x00800000#32 : Word).toInt ∧
      -8388608 ≤ (0xFF800000#32 : Word).toInt ∧ (0x007FFFFF#32 : Word).toInt ≤ 8388607 ∧
      (0xFF800000#32 : Word).toInt ≤ (0x007FFFFF#32 : Word).toInt := by decide
/-- At EG_MIN, and where the sum wraps. -/
theorem witness_OutputIsANonNegativeMagnitude :
    ready.Inv ∧ ready.tables = some (Config.gen rate44100) ∧
      ((0x40000#32 : Word).toNat : Int) = ((0#32 : Word).toInt + attenuation (0xFF800000#32 : Word).toInt / 64) % 2 ^ 32 ∧
      ((0x8001FFFF#32 : Word).toNat : Int) = ((0x7FFFFFFF#32 : Word).toInt + attenuation (0#32 : Word).toInt / 64) % 2 ^ 32 :=
  ⟨witness_inv_ready.1, rfl, by decide, by decide⟩
theorem witness_OutputIsNonDecreasingInTheEnvelope :
    ready.Inv ∧ ready.ready = true ∧ 0 ≤ (0#32 : Word).toInt ∧ (0#32 : Word).toInt + 0x40000 ≤ 2 ^ 31 - 1 ∧
      (0xFF7FFFFF#32 : Word).toInt ≤ (0x00800000#32 : Word).toInt ∧
      exec (.output 0#32 0xFF7FFFFF#32) ready =
        .next (answering (outputValue (Config.gen rate44100) 0#32 0xFF7FFFFF#32) ready) ∧
      exec (.output 0#32 0x00800000#32) ready =
        .next (answering (outputValue (Config.gen rate44100) 0#32 0x00800000#32) ready) :=
  ⟨witness_inv_ready.1, rfl, by decide, by decide, by decide, rfl, rfl⟩
theorem witness_OutputAtTheEndsOfTheEnvelope :
    ready.Inv ∧ ready.tables = some (Config.gen rate44100) ∧ 8388607 ≤ (0x007FFFFF#32 : Word).toInt ∧
      (0xFF800000#32 : Word).toInt ≤ -8388608 ∧ (0 : Int) ≤ (0x3BFFF#32 : Word).toInt ∧ (0x3BFFF#32 : Word).toNat < 0x3C000 ∧
      0x3C000 ≤ (0x3C000#32 : Word).toNat ∧ (0x3C000#32 : Word).toInt + 0x40000 ≤ 2 ^ 31 - 1 :=
  ⟨witness_inv_ready.1, rfl, by decide, by decide, by decide, by decide, by decide, by decide⟩
/-- An operand for each clause, at the ends of its range of octaves. -/
theorem witness_PitchShiftsTheNoteRatio :
    ready.tables = some (Config.gen rate44100) ∧ (4095 : Fin 4096).val = (0xFFFFFFFF#32 : Word).toNat % 4096 ∧
      (0x1F000#32 : Word).toInt / 4096 = (31 : Nat) ∧ (0#32 : Word).toInt / 4096 = (0 : Nat) ∧
      (0xFFFFFFFF#32 : Word).toInt / 4096 = -((1 : Nat) : Int) ∧ (0xFFFE1000#32 : Word).toInt / 4096 = -((31 : Nat) : Int) ∧
      32 ≤ (0x20000#32 : Word).toInt / 4096 ∧ (0xFFFE0FFF#32 : Word).toInt / 4096 ≤ -32 ∧ State.reset.tables = none :=
  ⟨rfl, by decide, by decide, by decide, by decide, by decide, by decide, by decide, rfl⟩
theorem witness_PitchDoublesPerOctave :
    ready.ready = true ∧ (0 : Int) ≤ (0x1EFFF#32 : Word).toInt / 4096 ∧ (0x1EFFF#32 : Word).toInt / 4096 ≤ 30 ∧
      (0xFFFE2000#32 : Word).toInt / 4096 ≤ 0 ∧ -30 ≤ (0xFFFE2000#32 : Word).toInt / 4096 ∧
      (0xFFFE1000#32 : Word).toInt / 4096 < 0 ∧ -31 ≤ (0xFFFE1000#32 : Word).toInt / 4096 :=
  ⟨rfl, by decide, by decide, by decide, by decide, by decide, by decide⟩
theorem witness_ScaleSplitsTheMagnitude :
    ready.tables = some (Config.gen rate44100) ∧ ready.Inv ∧ (8 : Fin 12).val = (0x80000000#32 : Word).toInt.natAbs % 12 ∧
      (0x80000000#32 : Word).toInt < 0 ∧ (0 : Fin 12).val = (0#32 : Word).toInt.natAbs % 12 ∧ 0 ≤ (0#32 : Word).toInt ∧
      State.reset.tables = none :=
  ⟨rfl, witness_inv_ready.1, by decide, by decide, by decide, by decide, rfl⟩
theorem witness_ScaleIsAntisymmetricWithOctaveSteps :
    ready.Inv ∧ ready.ready = true ∧ (0x80000001#32 : Word) ≠ 0x80000000#32 ∧ (0x7FFFFFF3#32 : Word).toNat ≤ 2 ^ 31 - 13 :=
  ⟨witness_inv_ready.1, rfl, by decide, by decide⟩
/-- LEVP's range at both ends of 0 to 99. -/
theorem witness_DecodersAnswerTheirCurves : (0#32 : Word).toNat ≤ 99 ∧ (99#32 : Word).toNat ≤ 99 := by decide
theorem witness_DecodersAreNonDecreasing :
    (0#32 : Word).toNat ≤ (99#32 : Word).toNat ∧ (99#32 : Word).toNat ≤ 99 := by decide
theorem witness_RdstatRepeats : exec (.rdstat 0#32 0#32) ready = .next (answering ready.status ready) := rfl
theorem witness_ReservedEncodingsFault :
    (0x10#32 : Word).toNat / 16 ≠ 0 ∧ (0x0#32 : Word).toNat % 16 = 0 ∧ 12 ≤ (0xC#32 : Word).toNat % 16 ∧
      12 ≤ (0xF#32 : Word).toNat % 16 := by decide
theorem witness_NotInitialisedIsRaisedByTheSixQueries :
    readsTable (.scale 0#32 0#32) = true ∧ State.reset.tables = none ∧ readsTable (.durp 0#32 0#32) = false ∧
      ready.tables ≠ none := ⟨rfl, rfl, rfl, by simp [ready]⟩
theorem witness_FaultsArePreciseAndSticky :
    exec (.exp 0#32 0#32) State.reset = .next (raiseFault .notInitialised State.reset) ∧
      (raiseFault .notInitialised State.reset).rsp = some ⟨0#32, 0x2#4⟩ ∧ (0x2#4 : Code) ≠ 0x0#4 ∧ (0x2#4 : Code) ≠ 0x3#4 ∧
      exec (.init 0#32 0#32) State.reset = .next (raiseFault .badRate (dropTables State.reset)) ∧
      (raiseFault .badRate (dropTables State.reset)).rsp = some ⟨0#32, 0x3#4⟩ :=
  ⟨rfl, rfl, by decide, by decide, rfl, rfl⟩
theorem witness_NoOperandFaults :
    ready.tables ≠ none ∧ (∀ cmd a b, Instr.init 0#32 0x40E58880#32 ≠ .reserved cmd a b) ∧
      (∀ a b, Instr.init 0#32 0x40E58880#32 = .init a b → validRate (rateWord a b) = true) := by
  refine ⟨by simp [ready], by simp, fun a b h => ?_⟩
  cases h
  decide
theorem witness_QueriesWriteNothingButTheResponse :
    (∀ a b, Instr.rdstat 0#32 0#32 ≠ .init a b) ∧ exec (.rdstat 0#32 0#32) ready = .next (answering ready.status ready) ∧
      (answering ready.status ready).rsp = some ⟨ready.status, 0x0#4⟩ := ⟨by simp, rfl, rfl⟩
theorem witness_OnlyResetClearsTheFaultState :
    ({ ready with fault := true, fcause := 1#4 } : State).fault = true ∧
      (∀ rest, ({ ready with fault := true, fcause := 1#4 } : State).inputs ≠ .reset :: rest) ∧
      step { ready with fault := true, fcause := 1#4 } = .next { ready with fault := true, fcause := 1#4 } :=
  ⟨rfl, by simp [ready], rfl⟩
theorem witness_AnswersDependOnTheTablesAlone :
    (∀ a b, Instr.reserved 0#32 0#32 0#32 ≠ .rdstat a b) ∧ ready.tables = flying.tables ∧
      exec (.reserved 0#32 0#32 0#32) ready = .next (raiseFault .illegalCommand ready) ∧
      exec (.reserved 0#32 0#32 0#32) flying = .next (raiseFault .illegalCommand flying) := ⟨by simp, rfl, rfl, rfl⟩
theorem witness_StepRunsTheDecodedCommand :
    flying.inflight = some ⟨firstPort, ⟨4#32, 0#32, 0#32⟩⟩ ∧ decode ⟨4#32, 0#32, 0#32⟩ = .exp 0#32 0#32 ∧
      flying.inputs = [] ∧
      exec (.exp 0#32 0#32) flying = .next (answering (expCore (Config.gen rate44100) 0#32) flying) ∧
      ({ flying with inputs := [.clock] } : State).inputs = .clock :: [] ∧
      ({ flying with inputs := [.command firstPort ⟨4#32, 0#32, 0#32⟩] } : State).inputs =
        .command firstPort ⟨4#32, 0#32, 0#32⟩ :: [] := ⟨rfl, by decide, rfl, rfl, rfl, rfl⟩
theorem witness_PlacedCommandRunsNext :
    decodeTableWord 32 0xB = some (.rdstat 0#32 0#32) ∧
      ∃ t, exec (.rdstat 0#32 0#32) { State.reset.withFetchWord 32 0xB with inputs := State.reset.inputs } = .next t :=
  ⟨by decide, _, rfl⟩
theorem witness_ReadyBlockAcceptsTheOffer :
    ({ ready with inputs := [.command firstPort ⟨1#32, 0#32, 0x40E58880#32⟩] } : State).inputs =
        .command firstPort ⟨1#32, 0#32, 0x40E58880#32⟩ :: [] ∧
      ({ ready with inputs := [.command firstPort ⟨1#32, 0#32, 0x40E58880#32⟩] } : State).cmdReady = true := ⟨rfl, rfl⟩
theorem witness_BusyHoldsEveryCommand :
    busyState.inputs = .command firstPort ⟨4#32, 0#32, 0#32⟩ :: [] ∧ busyState.busy = true ∧ busyState.Inv ∧
      ∃ t, step busyState = .next t := ⟨rfl, rfl, witness_inv_busy.1, _, rfl⟩
/-- A block at which one response waits and is taken. -/
def taking : State := { ready with answers := [⟨firstPort, ⟨7#32, 0#4⟩⟩], inputs := [.take firstPort] }

/-- One state for each clause: the block delivers at the port, idles, and executes the port's command. A take at another
port needs a second requester (N_REQ is open). -/
theorem witness_ResponsesKeepTheirOrder :
    ((∀ rest, taking.inputs ≠ .reset :: rest) ∧ taking.inputs = .take firstPort :: [] ∧ ∃ t, step taking = .next t) ∧
      ((∀ rest, ready.inputs ≠ .reset :: rest) ∧ (∀ p rest, ready.inputs ≠ .take p :: rest) ∧ ready.inflight = none ∧
        step ready = .next ready) ∧
      (∀ p rest, flying.inputs ≠ .take p :: rest) ∧ flying.inflight = some ⟨firstPort, ⟨4#32, 0#32, 0#32⟩⟩ ∧
        ∃ t, step flying = .next t :=
  ⟨⟨by simp [taking], rfl, _, rfl⟩, ⟨by simp [ready], by simp [ready], rfl, rfl⟩, by simp [flying, ready], rfl, _, rfl⟩
/-- The two clauses that need a second requester, where there is one. -/
theorem witness_ResponsesKeepTheirOrder_second_port (h : 1 < Config.nReq) :
    (⟨1, h⟩ : Port) ≠ firstPort ∧ ({ flying with inflight := some ⟨⟨1, h⟩, ⟨4#32, 0#32, 0#32⟩⟩ } : State).inputs = [] :=
  ⟨by simp [firstPort], rfl⟩
theorem witness_TakingDeliversTheOldestResponse :
    taking.inputs = .take firstPort :: [] ∧ taking.rspValid firstPort = true ∧
      ({ taking with answers := [] } : State).rspValid firstPort = false := ⟨rfl, by simp [taking, State.rspValid], rfl⟩
theorem test_take_delivers_oldest :
    (deliver firstPort { taking with answers := taking.answers ++ [⟨firstPort, ⟨9#32, 0#4⟩⟩] }).answersAt firstPort =
      [⟨9#32, 0#4⟩] := by simp [taking, deliver, State.answersAt]
theorem witness_RequestersAreInvisible :
    flying.inflight = some ⟨firstPort, ⟨4#32, 0#32, 0#32⟩⟩ ∧ flying.inputs = [] := ⟨rfl, rfl⟩
/-- With a command of the same port in flight, and with none. -/
theorem witness_OfferedCommandIsAnsweredInThreeSteps :
    (busyState.Inv ∧ busyState.inputs = [.command firstPort ⟨4#32, 0#32, 0#32⟩]) ∧
      ({ State.reset with inputs := [.command firstPort ⟨4#32, 0#32, 0#32⟩] } : State).Inv := by
  refine ⟨⟨witness_inv_busy.1, rfl⟩, ?_⟩
  constructor <;> simp
/-- A reset scheduled later makes no difference. -/
theorem witness_TablesAreImmutableBetweenInits :
    ({ flying with inputs := [.clock, .reset] } : State).tablesAtRest 1 ∧
      ∃ t, core.run 1 { flying with inputs := [.clock, .reset] } = .next t := by
  refine ⟨⟨fun q hq => ?_, fun e he => ?_⟩, _, rfl⟩
  · cases hq
    decide
  · obtain rfl : e = .clock := by simpa using he
    exact ⟨by simp, by simp⟩
theorem witness_OnlyInitAndResetChangeTheTables :
    (∀ q, flying.inflight = some q → isInit q.command = false) ∧ (∀ rest, flying.inputs ≠ .reset :: rest) ∧
      ∃ t, step flying = .next t := by
  refine ⟨fun q hq => ?_, by simp [flying, ready], _, rfl⟩
  cases hq
  decide
theorem witness_EveryScheduleIsATotalOrder : ready.idle ∧ ready.inputs = [] := ⟨⟨rfl, rfl, rfl⟩, rfl⟩
theorem witness_UndefinedNamesAreNeverIssued :
    AsmOperand.name "x" ∈ (AsmCommand.pitp (.literal 1) (.name "x")).operands ∧ ([] : AsmNames).lookup "x" = none ∧
      ∀ o ∈ (AsmCommand.pitp (.literal 1) (.name "x")).operands,
        o.word [("x", ⟨5#32, 0#4⟩)] = o.word [("y", ⟨6#32, 0#4⟩), ("x", ⟨5#32, 1#4⟩)] := by decide
theorem witness_LinesIssueTheResolvedWords :
    ∀ n, AsmOperand.name n ∈ (AsmCommand.pitch (.name "s")).operands →
      ([("s", ⟨0x1000#32, 0#4⟩)] : AsmNames).lookup n ≠ none := by
  intro n hn
  obtain rfl : n = "s" := by simpa [AsmCommand.operands] using hn
  decide
theorem witness_NamesStandForTheLatestResponse :
    (AsmLine.mk (some "x") (.exp (.literal 0))).dst = some "x" ∧ (AsmLine.mk none .rdstat).dst = none := ⟨rfl, rfl⟩
/-- P1 of 95_test_vectors.md: `%p = pitch %s` after `%s = scale 12`. -/
theorem test_assemble_name :
    (AsmCommand.pitch (.name "s")).assemble
        ((AsmLine.mk (some "s") (.scale (.literal 12))).record ⟨0x1000#32, 0#4⟩ []) =
      some ⟨0x00000006#32, 0x00001000#32, 0#32⟩ := by decide
theorem witness_WholeRatesAreEncodedExactly : 0 < 1 ∧ 0 < 2 ^ 53 - 1 ∧ 2 ^ 53 - 1 < 2 ^ 53 := by decide

end Sys2Proof.Tests
end

section
/-!
PROOFS. The table set over a run (rule R28): only an INIT in flight and a reset write it, and a run whose reachable inputs
hold neither brings neither about.
-/
namespace Sys2Proof.Proofs

open Sys2Proof Sys2Proof.Machine

/-! ## What one command can do to the tables and to the schedule -/

/-- A command is an INIT just when it decodes to one. -/
theorem isInit_iff (c : Command) : isInit c = true ↔ ∃ a b, decode c = .init a b := by
  unfold isInit
  split
  · next a b h => exact ⟨fun _ => ⟨a, b, h⟩, fun _ => rfl⟩
  · next h => exact ⟨fun hf => absurd hf (by decide), fun ⟨a, b, he⟩ => absurd he (h a b)⟩

/-- An instruction that is no INIT leaves the tables. -/
theorem exec_tables_of_not_init {i : Instr} {s t : State} (hi : ∀ a b, i ≠ .init a b) (h : exec i s = .next t) :
    t.tables = s.tables := by
  obtain ⟨-, v, rfl⟩ | ⟨-, c, -, rfl⟩ | ⟨a, b, rfl, -⟩ | ⟨a, b, rfl, -⟩ := exec_cases i s t h
  · exact respond_tables s v rsOk
  · exact raiseFault_tables s c
  · exact absurd rfl (hi a b)
  · exact absurd rfl (hi a b)

/-- No instruction touches what the outside world does next. -/
theorem exec_inputs {i : Instr} {s t : State} (h : exec i s = .next t) : t.inputs = s.inputs := by
  obtain ⟨-, v, rfl⟩ | ⟨-, c, -, rfl⟩ | ⟨a, b, -, -, rfl⟩ | ⟨a, b, -, -, rfl⟩ := exec_cases i s t h <;> simp

/-! ## What the block's work can do to them -/

/-- Work leaves the tables where no INIT is in flight. -/
theorem work_tables {s t : State} (hq : ∀ q, s.inflight = some q → isInit q.command = false) (h : work s = .next t) :
    t.tables = s.tables := by
  obtain ⟨-, rfl⟩ | ⟨q, u, hf, he, rfl⟩ := work_cases s t h
  · rfl
  · have hi : ∀ a b, decode q.command ≠ .init a b := fun a b hd => by
      simpa [hq q hf] using (isInit_iff q.command).2 ⟨a, b, hd⟩
    exact (post_tables u q.port).trans (exec_tables_of_not_init hi he)

/-- Work consumes no input. -/
theorem work_inputs {s t : State} (h : work s = .next t) : t.inputs = s.inputs := by
  obtain ⟨-, rfl⟩ | ⟨q, u, -, he, rfl⟩ := work_cases s t h
  · rfl
  · exact (post_inputs u q.port).trans (exec_inputs he)

/-- Work leaves nothing in flight. -/
theorem work_inflight {s t : State} (h : work s = .next t) : t.inflight = none := by
  obtain ⟨hf, rfl⟩ | ⟨q, u, -, -, rfl⟩ := work_cases s t h
  · exact hf
  · rfl

/-! ## What one step can do to them -/

/-- A step leaves the tables where no INIT is in flight and no reset comes next. -/
theorem step_tables {s t : State} (hq : ∀ q, s.inflight = some q → isInit q.command = false)
    (hr : ∀ rest, s.inputs ≠ .reset :: rest) (h : step s = .next t) : t.tables = s.tables := by
  obtain ⟨-, hw⟩ | ⟨rest, -, hw⟩ | ⟨p, c, rest, -, -, rfl⟩ | ⟨p, c, rest, -, -, hw⟩ | ⟨p, rest, -, rfl⟩ |
    ⟨rest, hi, -⟩ := step_cases s t h
  · exact work_tables hq hw
  · exact work_tables (s := { s with inputs := rest }) hq hw
  · rfl
  · exact work_tables hq hw
  · rfl
  · exact absurd hi (hr rest)

/-- A step consumes at most the next input. -/
theorem step_inputs {s t : State} (h : step s = .next t) : t.inputs = s.inputs ∨ t.inputs = s.inputs.tail := by
  obtain ⟨-, hw⟩ | ⟨rest, hi, hw⟩ | ⟨p, c, rest, hi, -, rfl⟩ | ⟨p, c, rest, -, -, hw⟩ | ⟨p, rest, hi, rfl⟩ |
    ⟨rest, hi, rfl⟩ := step_cases s t h
  · exact .inl (work_inputs hw)
  · exact .inr (by rw [work_inputs hw, hi]; rfl)
  · exact .inr (by rw [hi]; rfl)
  · exact .inl (work_inputs hw)
  · exact .inr (by rw [hi]; rfl)
  · exact .inr (by rw [hi]; rfl)

/-- After a step, what is in flight was in flight already, or was the command offered next. -/
theorem step_inflight {s t : State} (h : step s = .next t) {q : Request} (hq : t.inflight = some q) :
    s.inflight = some q ∨ ∃ rest, s.inputs = .command q.port q.command :: rest := by
  obtain ⟨-, hw⟩ | ⟨rest, -, hw⟩ | ⟨p, c, rest, hi, -, rfl⟩ | ⟨p, c, rest, -, -, hw⟩ | ⟨p, rest, -, rfl⟩ |
    ⟨rest, -, rfl⟩ := step_cases s t h
  · simp [work_inflight hw] at hq
  · simp [work_inflight hw] at hq
  · cases hq
    exact .inr ⟨rest, hi⟩
  · simp [work_inflight hw] at hq
  · exact .inl hq
  · simp at hq

/-- The next `k` inputs after a step are among the next `k + 1` before it. -/
theorem mem_take_inputs_of_step {s t : State} (h : step s = .next t) {k : Nat} {e : Event}
    (he : e ∈ t.inputs.take k) : e ∈ s.inputs.take (k + 1) := by
  obtain hi | hi := step_inputs h <;> rw [hi] at he
  · exact List.take_subset_take_left _ k.le_succ he
  · cases hs : s.inputs with
    | nil => simp [hs] at he
    | cons x rest => exact List.mem_cons_of_mem x (by simpa [hs] using he)

/-! ## Runs at rest -/

/-- At rest for one step or more, no reset comes next. -/
theorem not_reset_next_of_tablesAtRest {s : State} {k : Nat} (hs : s.tablesAtRest (k + 1)) (rest : List Event) :
    s.inputs ≠ .reset :: rest := fun hi =>
  (hs.2 .reset (by simp [hi])).1 rfl

/-- A step uses up one of the steps for which the tables are at rest. -/
theorem step_tablesAtRest {s t : State} {k : Nat} (hs : s.tablesAtRest (k + 1)) (h : step s = .next t) :
    t.tablesAtRest k := by
  obtain ⟨hflight, hinputs⟩ := hs
  refine ⟨fun q hq => ?_, fun e he => hinputs e (mem_take_inputs_of_step h he)⟩
  obtain hf | ⟨rest, hi⟩ := step_inflight h hq
  · exact hflight q hf
  · exact (hinputs _ (by simp [hi])).2 q.port q.command rfl

/-- A run of `k + 1` steps is a step and a run of `k`. -/
theorem run_succ_cases {M : Host.Core} {k : Nat} {s t : M.State} (h : M.run (k + 1) s = .next t) :
    ∃ u, M.step s = .next u ∧ M.run k u = .next t := by
  rw [Host.Core.run] at h
  split at h
  · next u hu => exact ⟨u, hu, h⟩
  · cases h
  · cases h

/-- Settles O46, by induction on the number of steps: each keeps the tables, and leaves them at rest for the others. -/
theorem tablesAreImmutableBetweenInits : Obligations.TablesAreImmutableBetweenInits := by
  intro k
  induction k with
  | zero =>
    intro s t _ h
    cases h
    rfl
  | succ k ih =>
    intro s t hs h
    obtain ⟨u, (hu : step s = .next u), hrun⟩ := run_succ_cases h
    calc t.tables
      _ = u.tables := ih u t (step_tablesAtRest hs hu) hrun
      _ = s.tables := step_tables hs.1 (not_reset_next_of_tablesAtRest hs) hu

end Sys2Proof.Proofs
end

section
/-!
PROOFS. The encoding of commands: the decoder against the opcode map (rule R72), the ports a command does not use (rule
R74), and the requester's names (rule R84).
-/
namespace Sys2Proof.Proofs

open Sys2Proof Sys2Proof.Machine

/-! ## The decoder -/

/-- Rule R79, the reserved CMD words as numbers: 0, and all from 0xC on. -/
theorem reservedWord_iff (cmd : Word) : reservedWord cmd = true ↔ cmd.toNat = 0x0 ∨ 0xC ≤ cmd.toNat := by
  have hlt := cmd.isLt
  simp only [reservedWord, Bool.or_eq_true, bne_iff_ne, ne_eq, beq_iff_eq, decide_eq_true_eq, BitVec.le_def,
    ← BitVec.toNat_inj, BitVec.extractLsb'_toNat, Nat.shiftRight_eq_div_pow, BitVec.toNat_ofNat]
  omega

/-- Every reserved CMD word decodes to the reserved row. -/
theorem decode_of_reservedWord {cmd : Word} (h : reservedWord cmd = true) (a b : Word) :
    decode ⟨cmd, a, b⟩ = .reserved cmd a b := by
  simp only [decode]
  split
  · next hhigh =>
    have hop : (cmd.extractLsb' 0 4).toNat = 0x0 ∨ 0xC ≤ (cmd.extractLsb' 0 4).toNat := by
      simpa [reservedWord, hhigh, BitVec.le_def, ← BitVec.toNat_inj] using h
    split
    case h_12 => rfl
    all_goals omega
  · rfl

/-- Decoding undoes encoding on every instruction that some command stands for. -/
theorem decode_encode {i : Instr} (hi : i.wf = true) : decode (encode i) = i := by
  cases i with
  | reserved cmd a b => exact decode_of_reservedWord hi a b
  | _ => simp [decode, encode]

/-- A command whose CMD word is the number in an instruction's row of the map decodes to that instruction. -/
theorem decode_of_cmd_toNat {i : Instr} (hi : i.wf = true) {cmd : Word} (h : cmd.toNat = (encode i).cmd.toNat) :
    decode ⟨cmd, (encode i).a, (encode i).b⟩ = i := by
  rw [BitVec.eq_of_toNat_eq h]
  exact decode_encode hi

/-- Settles O5: the eleven rows by their CMD words, every other word by the reserved row. -/
theorem decodingFollowsTheOpcodeMap : Obligations.DecodingFollowsTheOpcodeMap := by
  intro cmd a b
  exact ⟨decode_of_cmd_toNat (i := .init a b) rfl, decode_of_cmd_toNat (i := .logsin a b) rfl,
    decode_of_cmd_toNat (i := .log a b) rfl, decode_of_cmd_toNat (i := .exp a b) rfl,
    decode_of_cmd_toNat (i := .output a b) rfl, decode_of_cmd_toNat (i := .pitch a b) rfl,
    decode_of_cmd_toNat (i := .scale a b) rfl, decode_of_cmd_toNat (i := .durp a b) rfl,
    decode_of_cmd_toNat (i := .levp a b) rfl, decode_of_cmd_toNat (i := .pitp a b) rfl,
    decode_of_cmd_toNat (i := .rdstat a b) rfl,
    fun h => decode_of_reservedWord ((reservedWord_iff cmd).2 h) a b⟩

/-! ## The ports a command does not use -/

/-- Settles O37: three rows use both ports, seven ignore B, and the last two ignore A and B. -/
theorem unusedPortsAreIgnored : Obligations.UnusedPortsAreIgnored := by
  intro i s
  cases i with
  | init a b | output a b | pitp a b => rfl
  | logsin a b | log a b | exp a b | pitch a b | scale a b | durp a b | levp a b => rfl
  | rdstat a b | reserved cmd a b => rfl

/-! ## Names in the requester's lines -/

/-- The command of a line whose operands have these words: the mnemonic's CMD word, the words of opA and opB on A and B,
and 0 on an unused port; `init` takes its ports from its literal (rule R83). -/
def issuedCommand : AsmCommand → List Word → Command
  | .init rate, _ => encode (.init (rate.encode.extractLsb' 0 32) (rate.encode.extractLsb' 32 32))
  | c, words => ⟨BitVec.ofNat 32 c.opcode, words.getD 0 0#32, words.getD 1 0#32⟩

/-- A line is issued just when all its operands have words, and its command is made from those words alone. -/
theorem assemble_eq_issuedCommand (names : AsmNames) (c : AsmCommand) :
    c.assemble names = ((c.operands.map (AsmOperand.word names)).mapM id).map (issuedCommand c) := by
  cases c with
  | init rate | rdstat => rfl
  | logsin x | log x | exp x | pitch x | scale x | durp x | levp x =>
    cases h : x.word names <;>
      simp [AsmCommand.assemble, AsmCommand.operands, issuedCommand, AsmCommand.opcode, encode, h]
  | output x y | pitp x y =>
    cases hx : x.word names <;> cases hy : y.word names <;>
      simp [AsmCommand.assemble, AsmCommand.operands, issuedCommand, AsmCommand.opcode, encode, hx, hy]

/-- A list with one value missing has no list of values. -/
theorem mapM_id_eq_none_of_mem {α : Type} {l : List (Option α)} (h : none ∈ l) : l.mapM id = none := by
  induction l with
  | nil => cases h
  | cons x l ih =>
    cases x with
    | none => simp
    | some v => simp [ih (by simpa using h)]

/-- Settles O48: an undefined name has no word, and a line is issued from the words of all its operands. -/
theorem undefinedNamesAreNeverIssued : Obligations.UndefinedNamesAreNeverIssued := by
  refine fun names line => ⟨fun n hn hundef => ?_, fun names' hwords => ?_⟩
  · have hword : (AsmOperand.name n).word names = none := by simp [hundef]
    rw [assemble_eq_issuedCommand, mapM_id_eq_none_of_mem (List.mem_map.2 ⟨.name n, hn, hword⟩)]
    rfl
  · rw [assemble_eq_issuedCommand, assemble_eq_issuedCommand, List.map_congr_left hwords]

end Sys2Proof.Proofs
end

section
/-!
PROOFS. INIT (rules R100, R102): the rate check, and what the command leaves in either case.
-/
namespace Sys2Proof.Proofs

open Sys2Proof Sys2Proof.Machine

/-! ## The shared answers in the terms of the claims -/

/-- A completing command answers its value with OK and changes nothing else (rule R13). -/
theorem complete_eq_answering (v : Word) (s : State) : complete v s = .next (answering v s) := rfl

/-- The machine's fault procedure is rule R236 written out. -/
theorem raiseFault_eq_afterFault (cause : Cause) (s : State) : raiseFault cause s = afterFault cause.code s := rfl

/-! ## The two outcomes of INIT -/

/-- The check of rule R100 on the rate that the ports carry, B above A. -/
theorem validRate_rateWord_iff (a b : Word) :
    validRate (rateWord a b) = true ↔ (f64 (b ++ a)).isFinite = true ∧ (f64 (b ++ a)).isPositive = true := by
  rw [validRate, rateWord, Bool.and_eq_true]

/-- INIT with a valid rate installs the tables of that rate and answers 0 / OK (rule R100). -/
theorem exec_init_of_validRate {a b : Word} (h : validRate (rateWord a b) = true) (s : State) :
    exec (.init a b) s = .next (answering 0#32 (installTables (rateWord a b) s)) := by
  obtain ⟨-, hexec⟩ | ⟨hbad, -⟩ := execInit_cases a b s
  · rw [← complete_eq_answering]
    exact hexec
  · exact absurd h (by simp [hbad])

/-- INIT with any other rate drops the tables and faults BAD_RATE (rule R102). -/
theorem exec_init_of_not_validRate {a b : Word} (h : ¬ validRate (rateWord a b) = true) (s : State) :
    exec (.init a b) s = .next (afterFault Cause.badRate.code (dropTables s)) := by
  obtain ⟨hvalid, -⟩ | ⟨-, hexec⟩ := execInit_cases a b s
  · exact absurd hvalid h
  · rw [← raiseFault_eq_afterFault]
    exact hexec

/-- Settles O7: the rate check decides between the two outcomes of INIT. -/
theorem initBuildsOrDropsTheTables : Obligations.InitBuildsOrDropsTheTables := by
  intro a b s
  rw [← validRate_rateWord_iff]
  exact ⟨fun hvalid => exec_init_of_validRate hvalid s, fun hbad => exec_init_of_not_validRate hbad s⟩

end Sys2Proof.Proofs
end

section
/-!
PROOFS. LOGSIN and LOG (rules R120, R122), with what every query of the tables shares: its answer, its fault, and the
constraints on the table set it reads.
-/
namespace Sys2Proof.Proofs

open Sys2Proof Sys2Proof.Machine

/-! ## What every query shares -/

/-- With tables, a query answers the value computed from them with OK and changes nothing else (rules R56, R233). -/
theorem query_eq_answering (f : TableSet → Word) {s : State} {t : TableSet} (h : s.tables = some t) :
    query f s = .next (answering (f t) s) := by
  rw [query_of_tables f s t h, complete_eq_answering]

/-- Without tables, a query faults NOT_INITIALISED and changes nothing else (rules R233, R236). -/
theorem query_eq_afterFault (f : TableSet → Word) {s : State} (h : s.tables = none) :
    query f s = .next (afterFault Cause.notInitialised.code s) := by
  rw [query_of_no_tables f s h, raiseFault_eq_afterFault]

/-- Tables that are present under the invariant come from `GEN` and so meet its constraints (rules R104 to R110). -/
theorem legal_of_inv {s : State} {t : TableSet} (hs : s.Inv) (h : s.tables = some t) :
    t.Legal Config.outShift Config.logTol := by
  obtain ⟨rate, hvalid, rfl⟩ := hs.tables_generated t h
  exact Config.gen_legal rate hvalid

/-- The masked operand is the only index whose number is the operand's remainder by 16384 (rule R51). -/
theorem index14_eq_of_val {a : Word} {i : Fin 16384} (h : i.val = a.toNat % 16384) : index14 a = i :=
  Fin.ext ((index14_val a).trans h.symm)

/-! ## The two direct reads -/

/-- With tables, LOGSIN answers the LST entry at the masked phase (rule R120). -/
theorem exec_logsin_of_tables (a b : Word) {s : State} {t : TableSet} (h : s.tables = some t) :
    exec (.logsin a b) s = .next (answering (readLst t (index14 a)) s) :=
  query_eq_answering (fun t => readLst t (index14 a)) h

/-- With tables, LOG answers the LGT entry at the masked operand (rule R122). -/
theorem exec_log_of_tables (a b : Word) {s : State} {t : TableSet} (h : s.tables = some t) :
    exec (.log a b) s = .next (answering (readLgt t (index14 a)) s) :=
  query_eq_answering (fun t => readLgt t (index14 a)) h

/-- Settles O11: LOGSIN is a query of LST at the masked phase, whose entries rule R104 bounds. -/
theorem logsinReadsTheMaskedEntry : Obligations.LogsinReadsTheMaskedEntry := by
  refine fun a b s => ⟨fun t i ht hi => ?_, query_eq_afterFault _⟩
  obtain rfl := index14_eq_of_val hi
  exact ⟨exec_logsin_of_tables a b ht, fun hs => (legal_of_inv hs ht).lst_nonneg (index14 a)⟩

/-- Settles O12: LOG is a query of LGT at the masked operand. -/
theorem logReadsTheMaskedEntry : Obligations.LogReadsTheMaskedEntry := by
  refine fun a b s => ⟨fun t i ht hi => ?_, query_eq_afterFault _⟩
  obtain rfl := index14_eq_of_val hi
  exact exec_log_of_tables a b ht

end Sys2Proof.Proofs
end

section
/-!
PROOFS. EXP and OUTPUT (rules R140 to R146): EXP_CORE as the division of `decompressed`, what the table constraints make of
it, and the attenuated sum of OUTPUT with its left shift.
-/
namespace Sys2Proof.Proofs

open Sys2Proof Sys2Proof.Machine

/-! ## EXP_CORE as a division -/

/-- The clamped exponent of rule R140: the quotient by 16384 up to 31, and 0 for a negative operand. -/
theorem clamp_asr_toNat (l : Word) :
    (clamp (asr l 14) 0 31).toNat = if l.toNat < 2 ^ 31 then min (l.toNat / 16384) 31 else 0 := by
  have hlt := l.isLt
  rw [clamp, asr, s32_eq]
  split <;> omega

/-- The decompression reads the entry that EXP_CORE reads (rule R51). -/
theorem decompressed_eq (t : TableSet) (l : Word) :
    decompressed t l =
      (readExt t (index14 l)).toNat / 2 ^ (if l.toNat < 2 ^ 31 then min (l.toNat / 16384) 31 else 0) := by
  rw [index14_eq_of_val (i := ⟨l.toNat % 16384, Nat.mod_lt _ (by decide)⟩) rfl]
  rfl

/-- EXP_CORE answers the decompression (rules R140, R141). -/
theorem expCore_toNat_eq_decompressed (t : TableSet) (l : Word) : (expCore t l).toNat = decompressed t l := by
  rw [expCore_toNat, clamp_asr_toNat, decompressed_eq]

/-! ## What the table constraints make of it -/

/-- The decompression is at most the entry it reads. -/
theorem decompressed_le_readExt (t : TableSet) (l : Word) : decompressed t l ≤ (readExt t (index14 l)).toNat := by
  rw [decompressed_eq]
  exact Nat.div_le_self _ _

section
variable {t : TableSet} {outShift : Nat} {logTol : Fin 16384 → Option Nat} (ht : t.Legal outShift logTol)
include ht

/-- No entry of EXT is above the first (rule R105), by induction on the index. -/
theorem readExt_le_first : ∀ (i : Nat) (hi : i < 16384), (readExt t ⟨i, hi⟩).toNat ≤ (readExt t 0).toNat
  | 0, _ => Nat.le_refl _
  | i + 1, hi => (ht.ext_antitone i hi).trans (readExt_le_first i (Nat.lt_of_succ_lt hi))

/-- The decompression is in the range of the entries (rule R106). -/
theorem decompressed_le_range (l : Word) : decompressed t l ≤ 0x7FFFFFFF / 2 ^ outShift :=
  (decompressed_le_readExt t l).trans (ht.ext_range _)

/-- The decompression is at most the first entry (rule R105). -/
theorem decompressed_le_first (l : Word) : decompressed t l ≤ (readExt t 0).toNat :=
  (decompressed_le_readExt t l).trans (readExt_le_first ht _ _)

/-- From the exponent 31 on, the shift takes every bit of the entry, which is below 2^31 (rule R106). -/
theorem decompressed_eq_zero_of_tail {l : Word} (hlow : 0x7C000 ≤ l.toNat) (hhigh : l.toNat < 2 ^ 31) :
    decompressed t l = 0 := by
  have hexponent : min (l.toNat / 16384) 31 = 31 := by omega
  have hentry : (readExt t (index14 l)).toNat ≤ 0x7FFFFFFF := (ht.ext_range _).trans (Nat.div_le_self _ _)
  rw [decompressed_eq, if_pos hhigh, hexponent]
  omega

/-- The left shift of the decompression stays non-negative as s32 (rule R146). -/
theorem decompressed_mul_le (l : Word) : decompressed t l * 2 ^ outShift ≤ 0x7FFFFFFF :=
  (Nat.le_div_iff_mul_le (Nat.two_pow_pos outShift)).1 (decompressed_le_range ht l)

end

/-! ## EXP -/

/-- With tables, EXP answers EXP_CORE of its operand (rule R142). -/
theorem exec_exp_of_tables (a b : Word) {s : State} {t : TableSet} (h : s.tables = some t) :
    exec (.exp a b) s = .next (answering (expCore t a) s) :=
  query_eq_answering (fun t => expCore t a) h

/-- Settles O15: EXP is a query of EXP_CORE, which the constraints on EXT bound. -/
theorem expDecompressesItsOperand : Obligations.ExpDecompressesItsOperand := by
  refine fun a b s => ⟨fun t ht => ?_, query_eq_afterFault _⟩
  have hvalue := expCore_toNat_eq_decompressed t a
  refine ⟨expCore t a, exec_exp_of_tables a b ht, hvalue, fun hs => ?_⟩
  have hlegal := legal_of_inv hs ht
  rw [hvalue]
  refine ⟨decompressed_le_range hlegal a, fun hlow hhigh => ?_, fun first hfirst => ?_⟩
  · exact BitVec.eq_of_toNat_eq (hvalue.trans (decompressed_eq_zero_of_tail hlegal hlow hhigh))
  · obtain rfl : first = 0 := Fin.ext hfirst
    exact decompressed_le_first hlegal a

/-! ## OUTPUT -/

/-- The machine's ATTEN is rule R144 in numbers. -/
theorem atten_eq_attenuation (env : Word) : atten env = attenuation env.toInt := by
  simp only [atten, attenuation, s32, Config.egMin, Config.egMax]
  split_ifs <;> omega

/-- The word with the value of the attenuated sum mod 2^32 is the sum that OUTPUT decompresses (rules R145, R148). -/
theorem outputSum_eq_of_toNat {a b l : Word} (h : (l.toNat : Int) = (a.toInt + attenuation b.toInt / 64) % 2 ^ 32) :
    outputSum a b = l := by
  have hsum : ((outputSum a b).toNat : Int) = (a.toInt + attenuation b.toInt / 64) % 2 ^ 32 := by
    rw [← atten_eq_attenuation]
    exact u32_toNat _
  exact BitVec.eq_of_toNat_eq (Int.ofNat.inj (hsum.trans h.symm))

/-- OUTPUT shifts the decompression of its sum left, within 32 bits (rule R145). -/
theorem outputValue_toNat (t : TableSet) (a b : Word) :
    (outputValue t a b).toNat = decompressed t (outputSum a b) * 2 ^ Config.outShift % 2 ^ 32 := by
  have hshift : Config.outShift ≤ 31 := Config.outShift_le.trans (by decide)
  rw [outputValue, lsl32_toNat _ _ hshift, expCore_toNat_eq_decompressed]

/-- With legal tables the shift of OUTPUT needs no reduction (rule R146). -/
theorem outputValue_toNat_of_legal {t : TableSet} (ht : t.Legal Config.outShift Config.logTol) (a b : Word) :
    (outputValue t a b).toNat = decompressed t (outputSum a b) * 2 ^ Config.outShift := by
  rw [outputValue_toNat]
  exact Nat.mod_eq_of_lt ((decompressed_mul_le ht _).trans_lt (by decide))

/-- With legal tables the result of OUTPUT is non-negative as s32 (rule R146). -/
theorem outputValue_le {t : TableSet} (ht : t.Legal Config.outShift Config.logTol) (a b : Word) :
    (outputValue t a b).toNat ≤ 0x7FFFFFFF :=
  (outputValue_toNat_of_legal ht a b).trans_le (decompressed_mul_le ht _)

/-- With tables, OUTPUT answers the shifted decompression of its sum (rule R145). -/
theorem exec_output_of_tables (a b : Word) {s : State} {t : TableSet} (h : s.tables = some t) :
    exec (.output a b) s = .next (answering (outputValue t a b) s) :=
  query_eq_answering (fun t => outputValue t a b) h

/-- Settles O18: OUTPUT is a query of the shifted decompression, and `l` is the sum it decompresses. -/
theorem outputDecompressesTheAttenuatedSum : Obligations.OutputDecompressesTheAttenuatedSum := by
  refine fun a b s => ⟨fun t l ht hl => ?_, query_eq_afterFault _⟩
  obtain rfl := outputSum_eq_of_toNat hl
  exact ⟨outputValue t a b, exec_output_of_tables a b ht, outputValue_toNat t a b,
    fun hs => outputValue_le (legal_of_inv hs ht) a b⟩

/-- Settles O19: the range of EXT leaves room for the shift, so the result is a multiple of 2^OUT_SHIFT. -/
theorem outputIsANonNegativeMagnitude : Obligations.OutputIsANonNegativeMagnitude := by
  refine ⟨Config.outShift_le, fun a b l s t hs ht hl => ?_⟩
  obtain rfl := outputSum_eq_of_toNat hl
  have hlegal := legal_of_inv hs ht
  have hvalue := outputValue_toNat_of_legal hlegal a b
  exact ⟨outputValue t a b, exec_output_of_tables a b ht, decompressed_le_range hlegal _, hvalue,
    outputValue_le hlegal a b, by rw [hvalue, Nat.mul_mod_left]⟩

end Sys2Proof.Proofs
end

section
/-!
PROOFS. PITCH and SCALE (rules R170, R172): the octave shift of the note ratio by direction, and the semitone sum by the
sign of the note.
-/
namespace Sys2Proof.Proofs

open Sys2Proof Sys2Proof.Machine

/-! ## PITCH -/

/-- The masked operand is the only index whose number is the operand's remainder by 4096 (rule R51). -/
theorem index12_eq_of_val {a : Word} {i : Fin 4096} (h : i.val = a.toNat % 4096) : index12 a = i :=
  Fin.ext ((index12_val a).trans h.symm)

/-- The octave of PITCH is the floor of the operand by 4096 (rules R12, R170). -/
theorem asr_twelve_eq (a : Word) : asr a 12 = a.toInt / 4096 := rfl

/-- A non-negative octave shifts the note ratio left (rule R170). -/
theorem pitchValue_of_octave_up (t : TableSet) {a : Word} {o : Nat} (h : a.toInt / 4096 = o) :
    pitchValue t a = lsl32 (readNtt t (index12 a)) o := by
  simp [pitchValue, asr_twelve_eq, h]

/-- A negative octave shifts the note ratio right by its magnitude (rule R170). -/
theorem pitchValue_of_octave_down (t : TableSet) {a : Word} {o : Nat} (h : a.toInt / 4096 = -(o : Int)) (ho : 1 ≤ o) :
    pitchValue t a = lsr32 (readNtt t (index12 a)) o := by
  have hneg : ¬ -(o : Int) ≥ 0 := by omega
  simp only [pitchValue, asr_twelve_eq, h, if_neg hneg, neg_neg, Int.toNat_natCast]

/-- Beyond 31 octaves either way no bit of the note ratio is left (rules R12, R170). -/
theorem pitchValue_of_octave_wide (t : TableSet) {a : Word} (h : 32 ≤ a.toInt / 4096 ∨ a.toInt / 4096 ≤ -32) :
    pitchValue t a = 0#32 := by
  obtain hup | hdown := h
  · rw [pitchValue_of_octave_up t (o := (a.toInt / 4096).toNat) (by omega), lsl32_of_wide _ _ (by omega)]
  · rw [pitchValue_of_octave_down t (o := (-(a.toInt / 4096)).toNat) (by omega) (by omega),
      lsr32_of_wide _ _ (by omega)]

/-- With tables, PITCH answers the shifted note ratio (rule R170). -/
theorem exec_pitch_of_tables (a b : Word) {s : State} {t : TableSet} (h : s.tables = some t) :
    exec (.pitch a b) s = .next (answering (pitchValue t a) s) :=
  query_eq_answering (fun t => pitchValue t a) h

/-- Settles O22: PITCH is a query of the note ratio, shifted left, shifted right or shifted out. -/
theorem pitchShiftsTheNoteRatio : Obligations.PitchShiftsTheNoteRatio := by
  refine fun a b s => ⟨fun t i ht hi => ?_, query_eq_afterFault _⟩
  obtain rfl := index12_eq_of_val hi
  refine ⟨pitchValue t a, exec_pitch_of_tables a b ht, fun o ho hle => ?_, fun o ho hpos hle => ?_,
    pitchValue_of_octave_wide t⟩
  · rw [pitchValue_of_octave_up t ho]
    exact lsl32_toNat _ o hle
  · rw [pitchValue_of_octave_down t ho hpos]
    exact lsr32_toNat _ o hle

/-! ## SCALE -/

/-- The semitone is the only index whose number is the magnitude's remainder by 12 (rule R51). -/
theorem semitone_eq_of_val {a : Word} {k : Fin 12} (h : k.val = a.toInt.natAbs % 12) : semitone a = k :=
  Fin.ext h.symm

/-- Reduction mod 2^32 commutes with negation (rule R11). -/
theorem u32_neg (x : Int) : u32 (-x) = -u32 x := BitVec.ofInt_neg

/-- Negating a reduced sum and reducing again is reducing the negated sum: the two reductions of rule R172 make one. -/
theorem u32_neg_u32_toNat (x : Int) : u32 (-((u32 x).toNat : Int)) = u32 (-x) := by
  rw [u32_neg, u32_of_toNat, u32_neg]

/-- SCALE of a non-negative note is the sum of the semitone's entry and 4096 per octave (rule R172). -/
theorem scaleValue_of_nonneg (t : TableSet) {a : Word} (h : 0 ≤ a.toInt) :
    scaleValue t a = u32 ((readSct t (semitone a)).toNat + 4096 * noteOctave a : Nat) :=
  if_neg (not_lt.2 h)

/-- SCALE of a negative note is the negated sum of its magnitude (rule R172; 90_conflicts.md C4). -/
theorem scaleValue_of_neg (t : TableSet) {a : Word} (h : a.toInt < 0) :
    scaleValue t a = u32 (-((readSct t (semitone a)).toNat + 4096 * noteOctave a : Nat)) :=
  (if_pos h).trans (u32_neg_u32_toNat _)

/-- With tables, SCALE answers the signed sum (rule R172). -/
theorem exec_scale_of_tables (a b : Word) {s : State} {t : TableSet} (h : s.tables = some t) :
    exec (.scale a b) s = .next (answering (scaleValue t a) s) :=
  query_eq_answering (fun t => scaleValue t a) h

/-- Settles O24: SCALE is a query of the signed sum, by the sign of the note; rule R110 gives the entry of semitone 0. -/
theorem scaleSplitsTheMagnitude : Obligations.ScaleSplitsTheMagnitude := by
  refine fun a b s => ⟨fun t k ht hk => ?_, query_eq_afterFault _⟩
  obtain rfl := semitone_eq_of_val hk
  refine ⟨scaleValue t a, exec_scale_of_tables a b ht, fun hnonneg => ?_, fun hneg => ?_, fun hs hzero => ?_⟩
  · rw [scaleValue_of_nonneg t hnonneg]
    exact u32_toNat _
  · rw [scaleValue_of_neg t hneg]
    exact u32_toNat _
  · have hfirst : semitone a = 0 := Fin.ext hzero
    rw [hfirst]
    exact (legal_of_inv hs ht).sct_zero

end Sys2Proof.Proofs
end

section
/-!
PROOFS. DURP, LEVP and PITP (rules R200 to R207): the answers of the decoders, and the constraints on their curves for
operand words.
-/
namespace Sys2Proof.Proofs

open Sys2Proof Sys2Proof.Machine

/-! ## The answers, in every state -/

/-- DURP answers its curve, with tables or without (rule R200). -/
theorem exec_durp (a b : Word) (s : State) : exec (.durp a b) s = .next (answering (Config.durFn a) s) :=
  complete_eq_answering (Config.durFn a) s

/-- LEVP answers its curve, with tables or without (rule R203). -/
theorem exec_levp (a b : Word) (s : State) : exec (.levp a b) s = .next (answering (Config.levFn a) s) :=
  complete_eq_answering (Config.levFn a) s

/-- PITP answers its curve, with tables or without (rule R206). -/
theorem exec_pitp (a b : Word) (s : State) : exec (.pitp a b) s = .next (answering (Config.pitFn a b) s) :=
  complete_eq_answering (Config.pitFn a b) s

/-! ## The curves on operand words

The configuration constrains the curves at numbers; an operand word is the word of its own number. -/

/-- The curve of DURP does not fall on the words 0 to 99 (rule R201). -/
theorem durFn_le_durFn {a a' : Word} (hle : a.toNat ≤ a'.toNat) (hmax : a'.toNat ≤ 99) :
    (Config.durFn a).toNat ≤ (Config.durFn a').toNat := by
  simpa only [BitVec.ofNat_toNat, BitVec.setWidth_eq] using Config.durFn_monotone a.toNat a'.toNat hle hmax

/-- The curve of LEVP lies in 1 to 0x100000 on the words 0 to 99 (rule R204). -/
theorem levFn_pos_and_le {a : Word} (hmax : a.toNat ≤ 99) :
    0 < (Config.levFn a).toNat ∧ (Config.levFn a).toNat ≤ 0x100000 := by
  simpa only [BitVec.ofNat_toNat, BitVec.setWidth_eq] using Config.levFn_range a.toNat hmax

/-- The curve of LEVP does not fall on the words 0 to 99 (rule R204). -/
theorem levFn_le_levFn {a a' : Word} (hle : a.toNat ≤ a'.toNat) (hmax : a'.toNat ≤ 99) :
    (Config.levFn a).toNat ≤ (Config.levFn a').toNat := by
  simpa only [BitVec.ofNat_toNat, BitVec.setWidth_eq] using Config.levFn_monotone a.toNat a'.toNat hle hmax

/-- For a fixed scale the curve of PITP does not fall on the words 0 to 99 (rule R207). -/
theorem pitFn_le_pitFn (scale : Word) {a a' : Word} (hle : a.toNat ≤ a'.toNat) (hmax : a'.toNat ≤ 99) :
    (Config.pitFn a scale).toNat ≤ (Config.pitFn a' scale).toNat := by
  simpa only [BitVec.ofNat_toNat, BitVec.setWidth_eq] using Config.pitFn_monotone scale a.toNat a'.toNat hle hmax

/-! ## The claims -/

/-- Settles O26: no decoder looks at the state, and rule R204 gives the range of LEVP. -/
theorem decodersAnswerTheirCurves : Obligations.DecodersAnswerTheirCurves := fun a b s =>
  ⟨exec_durp a b s, exec_levp a b s, exec_pitp a b s, levFn_pos_and_le⟩

/-- Settles O27: each pair of answers is two values of one curve; the lower answer of LEVP is above 0, the higher within
the range. -/
theorem decodersAreNonDecreasing : Obligations.DecodersAreNonDecreasing := by
  intro a a' b s hle hmax
  obtain ⟨hlow, -⟩ := levFn_pos_and_le (hle.trans hmax)
  obtain ⟨-, hhigh⟩ := levFn_pos_and_le hmax
  exact ⟨⟨_, _, exec_durp a b s, exec_durp a' b s, durFn_le_durFn hle hmax⟩,
    ⟨_, _, exec_levp a b s, exec_levp a' b s, levFn_le_levFn hle hmax, hlow, hhigh⟩,
    ⟨_, _, exec_pitp a b s, exec_pitp a' b s, pitFn_le_pitFn b hle hmax⟩⟩

end Sys2Proof.Proofs
end

section
/-!
PROOFS. RDSTAT (rule R220): the STATUS word as a number, field by field (rule R26), and the command that reads it.
-/
namespace Sys2Proof.Proofs

open Sys2Proof Sys2Proof.Machine

/-- Joining two words adds the upper one's number above the lower one's bits. -/
theorem toNat_append_eq_add {m n : Nat} (x : BitVec m) (y : BitVec n) :
    (x ++ y).toNat = x.toNat * 2 ^ n + y.toNat := by
  rw [BitVec.toNat_append, ← Nat.shiftLeft_add_eq_or_of_lt y.isLt, Nat.shiftLeft_eq]

/-- The packed word is the sum of its three fields at their places: no other bit of it is set (rule R26). -/
theorem packStatus_toNat (fcause : Code) (fault ready : Bool) :
    (packStatus fcause fault ready).toNat = 16 * fcause.toNat + 2 * fault.toNat + ready.toNat := by
  simp only [packStatus, toNat_append_eq_add, BitVec.toNat_ofNat, BitVec.toNat_ofBool]
  omega

/-- READY is 0 exactly where no tables are present (rule R23). -/
theorem ready_toNat (s : State) : s.ready.toNat = if s.tables = none then 0 else 1 := by
  cases h : s.tables with
  | none | some t => simp [State.ready, h]

/-- STATUS in the terms of the claims, over the fields it is computed from (rule R26). -/
theorem status_toNat (s : State) :
    s.status.toNat =
      16 * s.fcause.toNat + (if s.fault = true then 2 else 0) + (if s.tables = none then 0 else 1) := by
  have hfault : 2 * s.fault.toNat = if s.fault = true then 2 else 0 := by cases s.fault <;> rfl
  rw [State.status, packStatus_toNat, ready_toNat, hfault]

/-- RDSTAT answers STATUS, with tables or without (rule R220). -/
theorem exec_rdstat (a b : Word) (s : State) : exec (.rdstat a b) s = .next (answering s.status s) :=
  complete_eq_answering s.status s

/-- Settles O28: the word is STATUS, whose number is the sum of its fields. -/
theorem rdstatReadsTheStatusWord : Obligations.RdstatReadsTheStatusWord := fun a b s =>
  ⟨s.status, exec_rdstat a b s, status_toNat s⟩

end Sys2Proof.Proofs
end

section
/-!
PROOFS. Faults (rules R230 to R238): which commands fault and with what cause, what the fault procedure writes, and that
only reset clears what it wrote.
-/
namespace Sys2Proof.Proofs

open Sys2Proof Sys2Proof.Machine

/-! ## Which commands fault -/

/-- A reserved encoding faults ILLEGAL_COMMAND and changes nothing else (rule R231). -/
theorem exec_reserved (cmd a b : Word) (s : State) :
    exec (.reserved cmd a b) s = .next (afterFault Cause.illegalCommand.code s) :=
  congrArg Host.Outcome.next (raiseFault_eq_afterFault .illegalCommand s)

/-- Every command that reads a table is a query of the table set (rules R56, R233). -/
theorem exec_eq_query_of_readsTable {i : Instr} (hread : readsTable i = true) :
    ∃ f : TableSet → Word, ∀ s, exec i s = query f s := by
  cases i with
  | logsin a b | log a b | exp a b | output a b | pitch a b | scale a b => exact ⟨_, fun _ => rfl⟩
  | init a b | durp a b | levp a b | pitp a b | rdstat a b | reserved cmd a b => cases hread

/-- Of the commands that read no table, all but INIT and the reserved encodings answer OK in every state and change
nothing else. -/
theorem exec_of_not_readsTable {i : Instr} (hread : readsTable i = false) (s : State) :
    (∃ v, exec i s = .next (answering v s)) ∨ (∃ a b, i = .init a b) ∨ ∃ cmd a b, i = .reserved cmd a b := by
  cases i with
  | logsin a b | log a b | exp a b | output a b | pitch a b | scale a b => cases hread
  | init a b => exact .inr (.inl ⟨a, b, rfl⟩)
  | durp a b => exact .inl ⟨_, exec_durp a b s⟩
  | levp a b => exact .inl ⟨_, exec_levp a b s⟩
  | pitp a b => exact .inl ⟨_, exec_pitp a b s⟩
  | rdstat a b => exact .inl ⟨_, exec_rdstat a b s⟩
  | reserved cmd a b => exact .inr (.inr ⟨cmd, a, b, rfl⟩)

/-- A command that finds the tables it reads answers OK and changes nothing else, unless it is INIT or a reserved
encoding (rules R232, R233). -/
theorem exec_answering_or_init_or_reserved {i : Instr} {s : State} (h : readsTable i = false ∨ s.tables ≠ none) :
    (∃ v, exec i s = .next (answering v s)) ∨ (∃ a b, i = .init a b) ∨ ∃ cmd a b, i = .reserved cmd a b := by
  cases hread : readsTable i with
  | false => exact exec_of_not_readsTable hread s
  | true =>
    obtain ⟨t, ht⟩ := Option.ne_none_iff_exists'.1 (h.resolve_left (by simp [hread]))
    obtain ⟨f, hf⟩ := exec_eq_query_of_readsTable hread
    exact .inl ⟨f t, (hf s).trans (query_eq_answering f ht)⟩

/-- Settles O30: the premise names the reserved words of rule R79, bits 31:4 and OP together. -/
theorem reservedEncodingsFault : Obligations.ReservedEncodingsFault := by
  intro cmd a b s h
  have hreserved : reservedWord cmd = true := (reservedWord_iff cmd).2 (by omega)
  exact ⟨decode_of_reservedWord hreserved a b, exec_reserved cmd a b s⟩

/-- Settles O31: without tables a query faults NOT_INITIALISED; otherwise a command answers OK, or is a reserved
encoding or an INIT, which have causes of their own. -/
theorem notInitialisedIsRaisedByTheSixQueries : Obligations.NotInitialisedIsRaisedByTheSixQueries := by
  refine fun i s => ⟨fun hread hnone => ?_, fun h => ?_⟩
  · obtain ⟨f, hf⟩ := exec_eq_query_of_readsTable hread
    exact (hf s).trans (query_eq_afterFault f hnone)
  · obtain ⟨v, hv⟩ | ⟨a, b, rfl⟩ | ⟨cmd, a, b, rfl⟩ := exec_answering_or_init_or_reserved h
    · exact ⟨_, _, hv, rfl, by simp⟩
    · by_cases hvalid : validRate (rateWord a b) = true
      · exact ⟨_, _, exec_init_of_validRate hvalid s, rfl, by simp⟩
      · exact ⟨_, _, exec_init_of_not_validRate hvalid s, rfl, by decide⟩
    · exact ⟨_, _, exec_reserved cmd a b s, rfl, by decide⟩

/-- Settles O34: with tables present every command finds what it reads, and the rate of an INIT is valid by
the premise. -/
theorem noOperandFaults : Obligations.NoOperandFaults := by
  intro i s htables hreserved hrate
  obtain ⟨v, hv⟩ | ⟨a, b, rfl⟩ | ⟨cmd, a, b, rfl⟩ := exec_answering_or_init_or_reserved (i := i) (.inr htables)
  · exact ⟨_, v, hv, rfl, rfl, rfl⟩
  · exact ⟨_, 0#32, exec_init_of_validRate (hrate a b rfl) s, rfl, rfl, rfl⟩
  · exact absurd rfl (hreserved cmd a b)

/-! ## What a fault writes -/

/-- BAD_RATE is the only cause with its code (rule R230). -/
theorem code_ne_badRate {c : Cause} (h : c ≠ .badRate) : c.code ≠ 0x3#4 := by
  cases c with
  | illegalCommand | notInitialised => decide
  | badRate => exact absurd rfl h

/-- A command whose response is no OK took a fault: any cause but BAD_RATE on the state as it was, or BAD_RATE on the
state without its tables (rules R102, R236). -/
theorem exec_cases_of_not_ok {i : Instr} {s t : State} {r : Response} (h : exec i s = .next t) (hr : t.rsp = some r)
    (hrs : r.rs ≠ 0x0#4) : (∃ c, c ≠ Cause.badRate ∧ t = raiseFault c s) ∨ t = raiseFault .badRate (dropTables s) := by
  obtain ⟨-, v, rfl⟩ | ⟨-, c, hc, rfl⟩ | ⟨a, b, -, -, rfl⟩ | ⟨a, b, -, -, rfl⟩ := exec_cases i s t h
  · cases hr
    exact absurd rfl hrs
  · exact .inl ⟨c, hc, rfl⟩
  · cases hr
    exact absurd rfl hrs
  · exact .inr rfl

/-- Settles O33: the fault procedure runs on the state itself, or on BAD_RATE on the state without its tables. -/
theorem faultsArePreciseAndSticky : Obligations.FaultsArePreciseAndSticky := by
  intro i s t r h hr hrs
  obtain ⟨c, hc, rfl⟩ | rfl := exec_cases_of_not_ok h hr hrs
  · cases hr
    exact ⟨rfl, rfl, rfl, fun _ => rfl, fun hbad => absurd hbad (code_ne_badRate hc), rfl, rfl, rfl, rfl⟩
  · cases hr
    exact ⟨rfl, rfl, rfl, fun hbad => absurd rfl hbad, fun _ => rfl, rfl, rfl, rfl, rfl⟩

/-! ## What clears it -/

/-- No command clears a recorded fault or its cause (rule R238). -/
theorem exec_keeps_fault {i : Instr} {s t : State} (hs : s.fault = true) (h : exec i s = .next t) :
    t.fault = true ∧ t.fcause = s.fcause := by
  obtain ⟨-, v, rfl⟩ | ⟨-, c, -, rfl⟩ | ⟨a, b, -, -, rfl⟩ | ⟨a, b, -, -, rfl⟩ := exec_cases i s t h
  · exact ⟨hs, rfl⟩
  · exact ⟨rfl, raiseFault_fcause_later c s hs⟩
  · exact ⟨hs, rfl⟩
  · exact ⟨rfl, raiseFault_fcause_later .badRate (dropTables s) hs⟩

/-- The block's work clears neither. -/
theorem work_keeps_fault {s t : State} (hs : s.fault = true) (h : work s = .next t) :
    t.fault = true ∧ t.fcause = s.fcause := by
  obtain ⟨-, rfl⟩ | ⟨q, u, -, he, rfl⟩ := work_cases s t h
  · exact ⟨hs, rfl⟩
  · exact exec_keeps_fault (t := u) hs he

/-- Settles O36: a step that is no reset is work, an acceptance or a delivery, and the last two touch neither field. -/
theorem onlyResetClearsTheFaultState : Obligations.OnlyResetClearsTheFaultState := by
  intro s t hs hr h
  obtain ⟨-, hw⟩ | ⟨rest, -, hw⟩ | ⟨p, c, rest, -, -, rfl⟩ | ⟨p, c, rest, -, -, hw⟩ | ⟨p, rest, -, rfl⟩ |
    ⟨rest, hi, -⟩ := step_cases s t h
  · exact work_keeps_fault hs hw
  · exact work_keeps_fault (s := { s with inputs := rest }) hs hw
  · exact ⟨hs, rfl⟩
  · exact work_keeps_fault hs hw
  · exact ⟨hs, rfl⟩
  · exact absurd hi (hr rest)

end Sys2Proof.Proofs
end

section
/-!
PROOFS. What one command does to the block (rules R56, R70, R78): it always answers, its effect is one of four kinds, and
what decides the kind is the table set, for RDSTAT the STATUS word.
-/
namespace Sys2Proof.Proofs

open Sys2Proof Sys2Proof.Machine

/-! ## The effect of a command, the same in every state that looks the same to it -/

/-- A query has the same effect in every state with the same tables: one answer, or the fault NOT_INITIALISED. -/
theorem query_uniform (f : TableSet → Word) (s : State) :
    (∃ v, ∀ s', s'.tables = s.tables → query f s' = .next (answering v s')) ∨
      ∀ s', s'.tables = s.tables → query f s' = .next (raiseFault .notInitialised s') := by
  obtain ⟨hnone, -⟩ | ⟨t, ht, -⟩ := query_cases f s
  · exact .inr fun s' h => query_of_no_tables f s' (h.trans hnone)
  · exact .inl ⟨f t, fun s' h => query_eq_answering f (h.trans ht)⟩

/-- The four effects a command can have, `exec_cases` the other way round: which of them it has in `s`, it has in every
state with the same tables, and for RDSTAT the same STATUS. -/
theorem exec_uniform (i : Instr) (s : State) :
    ((∀ a b, i ≠ .init a b) ∧ ∃ v, ∀ s', s'.tables = s.tables → (∀ a b, i = .rdstat a b → s'.status = s.status) →
      exec i s' = .next (answering v s')) ∨
    ((∀ a b, i ≠ .init a b) ∧ ∃ c, ∀ s', s'.tables = s.tables → exec i s' = .next (raiseFault c s')) ∨
    (∃ a b, i = .init a b ∧ validRate (rateWord a b) = true ∧
      ∀ s', exec i s' = .next (answering 0#32 (installTables (rateWord a b) s'))) ∨
    (∃ a b, i = .init a b ∧ validRate (rateWord a b) = false ∧
      ∀ s', exec i s' = .next (raiseFault .badRate (dropTables s'))) := by
  cases hread : readsTable i with
  | true =>
    have hinit : ∀ a b, i ≠ .init a b := fun a b hi => by simp [hi, readsTable] at hread
    obtain ⟨f, hf⟩ := exec_eq_query_of_readsTable hread
    obtain ⟨v, hv⟩ | hfault := query_uniform f s
    · exact .inl ⟨hinit, v, fun s' h _ => (hf s').trans (hv s' h)⟩
    · exact .inr (.inl ⟨hinit, .notInitialised, fun s' h => (hf s').trans (hfault s' h)⟩)
  | false =>
    cases i with
    | init a b =>
      by_cases hvalid : validRate (rateWord a b) = true
      · exact .inr (.inr (.inl ⟨a, b, rfl, hvalid, exec_init_of_validRate hvalid⟩))
      · exact .inr (.inr (.inr ⟨a, b, rfl, by simpa using hvalid, exec_init_of_not_validRate hvalid⟩))
    | logsin a b | log a b | exp a b | output a b | pitch a b | scale a b => cases hread
    | durp a b => exact .inl ⟨by simp, _, fun s' _ _ => exec_durp a b s'⟩
    | levp a b => exact .inl ⟨by simp, _, fun s' _ _ => exec_levp a b s'⟩
    | pitp a b => exact .inl ⟨by simp, _, fun s' _ _ => exec_pitp a b s'⟩
    | rdstat a b => exact .inl ⟨by simp, s.status, fun s' _ h => h a b rfl ▸ exec_rdstat a b s'⟩
    | reserved cmd a b => exact .inr (.inl ⟨by simp, .illegalCommand, fun s' _ => exec_reserved cmd a b s'⟩)

/-- Every command has a next state (rules R73, R237). -/
theorem exists_exec_next (i : Instr) (s : State) : ∃ t, exec i s = .next t := by
  obtain ⟨-, v, h⟩ | ⟨-, c, h⟩ | ⟨a, b, -, -, h⟩ | ⟨a, b, -, -, h⟩ := exec_uniform i s
  · exact ⟨_, h s rfl fun _ _ _ => rfl⟩
  · exact ⟨_, h s rfl⟩
  · exact ⟨_, h s⟩
  · exact ⟨_, h s⟩

/-! ## The response of a command -/

/-- The three codes of rule R230. -/
theorem code_cases (c : Cause) : c.code = 1#4 ∨ c.code = 2#4 ∨ c.code = 3#4 := by
  cases c with
  | illegalCommand => exact .inl rfl
  | notInitialised => exact .inr (.inl rfl)
  | badRate => exact .inr (.inr rfl)

/-- The response of a fault has one of the four codes (rule R78). -/
theorem code_toNat_le (c : Cause) : c.code.toNat ≤ 3 := by
  obtain h | h | h := code_cases c <;> rw [h] <;> decide

/-- A command leaves its response on R and RS: one of the four codes, and R = 0 on a fault (rules R78, R236). -/
theorem exec_response {i : Instr} {s t : State} (h : exec i s = .next t) :
    ∃ r, t.rsp = some r ∧ r.rs.toNat ≤ 3 ∧ (r.rs ≠ rsOk → r.r = 0#32) := by
  obtain ⟨-, v, rfl⟩ | ⟨-, c, -, rfl⟩ | ⟨a, b, -, -, rfl⟩ | ⟨a, b, -, -, rfl⟩ := exec_cases i s t h
  · exact ⟨_, rfl, (by decide : rsOk.toNat ≤ 3), fun hok => absurd rfl hok⟩
  · exact ⟨_, rfl, code_toNat_le c, fun _ => rfl⟩
  · exact ⟨_, rfl, by decide, fun _ => rfl⟩
  · exact ⟨_, rfl, code_toNat_le .badRate, fun _ => rfl⟩

/-- No command touches the responses that wait (rule R82). -/
theorem exec_answers {i : Instr} {s t : State} (h : exec i s = .next t) : t.answers = s.answers := by
  obtain ⟨-, v, rfl⟩ | ⟨-, c, -, rfl⟩ | ⟨a, b, -, -, rfl⟩ | ⟨a, b, -, -, rfl⟩ := exec_cases i s t h <;> rfl

/-- Posting adds the response on R and RS to the end of the waiting ones (rule R82). -/
theorem post_answers_of_rsp {s : State} {r : Response} (h : s.rsp = some r) (p : Port) :
    (post p s).answers = s.answers ++ [⟨p, r⟩] := by
  simp [h]

/-- Settles O32: every command has a next state, which holds its response and the waiting responses of before. -/
theorem everyCommandIsAnswered : Obligations.EveryCommandIsAnswered := by
  intro c s
  obtain ⟨t, ht⟩ := exists_exec_next (decode c) s
  obtain ⟨r, hr, hcode, -⟩ := exec_response ht
  have hanswers := exec_answers ht
  exact ⟨t, r, ht, hr, hcode, hanswers, fun p => hanswers ▸ post_answers_of_rsp hr p⟩

/-! ## What a command leaves, and what it depends on -/

/-- Settles O35: a command that is no INIT responds or faults, and nothing else. -/
theorem queriesWriteNothingButTheResponse : Obligations.QueriesWriteNothingButTheResponse := by
  intro i s t r hinit h hr
  obtain ⟨-, v, rfl⟩ | ⟨-, c, -, rfl⟩ | ⟨a, b, hi, -⟩ | ⟨a, b, hi, -⟩ := exec_cases i s t h
  · cases hr
    exact ⟨rfl, rfl, rfl, rfl, rfl, fun _ => rfl⟩
  · cases hr
    refine ⟨rfl, rfl, rfl, rfl, rfl, fun hok => ?_⟩
    cases c <;> cases hok
  · exact absurd hi (hinit a b)
  · exact absurd hi (hinit a b)

/-- Settles O38: but for RDSTAT the tables alone decide the effect, and each effect has its own response and tables. -/
theorem answersDependOnTheTablesAlone : Obligations.AnswersDependOnTheTablesAlone := by
  intro i s s' t t' hrdstat htables h h'
  obtain ⟨-, v, he⟩ | ⟨-, c, he⟩ | ⟨a, b, -, -, he⟩ | ⟨a, b, -, -, he⟩ := exec_uniform i s
  · have hview : ∀ u : State, ∀ a b, i = .rdstat a b → u.status = s.status := fun _ a b hi => absurd hi (hrdstat a b)
    cases h.symm.trans (he s rfl (hview s))
    cases h'.symm.trans (he s' htables.symm (hview s'))
    exact ⟨rfl, htables⟩
  · cases h.symm.trans (he s rfl)
    cases h'.symm.trans (he s' htables.symm)
    exact ⟨rfl, htables⟩
  · cases h.symm.trans (he s)
    cases h'.symm.trans (he s')
    exact ⟨rfl, rfl⟩
  · cases h.symm.trans (he s)
    cases h'.symm.trans (he s')
    exact ⟨rfl, rfl⟩

/-- Settles O10: a bad rate leaves no tables, so a query faults. -/
theorem badRateSilencesEveryQuery : Obligations.BadRateSilencesEveryQuery := by
  intro a b s t i hbad h hread
  cases h.symm.trans (exec_init_of_not_validRate (by simp [hbad]) s)
  obtain ⟨f, hf⟩ := exec_eq_query_of_readsTable hread
  exact ⟨(hf _).trans (query_eq_afterFault f rfl), rfl⟩

/-- Settles O29: STATUS does not depend on the response, so the second read answers the same word. -/
theorem rdstatRepeats : Obligations.RdstatRepeats := by
  intro a b a' b' s t h
  cases h.symm.trans (exec_rdstat a b s)
  exact exec_rdstat a' b' _

/-- Settles O14: the index is the operand's remainder by 16384 (rule R51). -/
theorem maskedIndicesAlias : Obligations.MaskedIndicesAlias := by
  intro a a' b b' s h
  have hindex : index14 a = index14 a' := index14_eq_of_val ((index14_val a').trans h.symm)
  exact ⟨congrArg (fun i => query (fun t => readLst t i) s) hindex,
    congrArg (fun i => query (fun t => readLgt t i) s) hindex⟩

end Sys2Proof.Proofs
end

section
/-!
PROOFS. The invariant (rules R20, R23, R25, R29, R78): the reset state meets it, and every step keeps it, shown field by
field for a command and then for the block's work.
-/
namespace Sys2Proof.Proofs

open Sys2Proof Sys2Proof.Machine

/-! ## Reset and the inputs -/

/-- The reset state meets the invariant, whatever is scheduled. -/
theorem inv_reset_with_inputs (inputs : List Event) : ({ State.reset with inputs := inputs } : State).Inv where
  cause_when_clean _ := rfl
  cause_when_faulted h := by cases h
  tables_generated _ h := by cases h
  busy_iff := by simp
  ports_empty := rfl
  answers_coded := by simp

/-- The invariant does not speak of the inputs. -/
theorem inv_with_inputs {s : State} (hs : s.Inv) (inputs : List Event) : ({ s with inputs := inputs } : State).Inv :=
  { hs with }

/-- Settles O2: it is the reset state with the empty schedule. -/
theorem resetStateMeetsTheInvariant : Obligations.ResetStateMeetsTheInvariant := inv_reset_with_inputs []

/-- Settles O9: `GEN` gives legal tables for a valid rate, and the configuration bounds the shift. -/
theorem presentTablesAreLegal : Obligations.PresentTablesAreLegal := fun _ _ hs ht =>
  ⟨legal_of_inv hs ht, Config.outShift_le⟩

/-! ## One command -/

/-- A command keeps FCAUSE at 0 while FAULT is 0 (rule R25). -/
theorem exec_cause_when_clean {i : Instr} {s t : State} (hs : s.Inv) (h : exec i s = .next t) :
    t.fault = false → t.fcause = 0#4 := by
  obtain ⟨-, v, rfl⟩ | ⟨-, c, -, rfl⟩ | ⟨a, b, -, -, rfl⟩ | ⟨a, b, -, -, rfl⟩ := exec_cases i s t h
  · exact hs.cause_when_clean
  · simp
  · exact hs.cause_when_clean
  · simp

/-- The fault procedure leaves one of the three causes in FCAUSE (rules R230, R236). -/
theorem raiseFault_fcause_cases {s : State} (hs : s.fault = true → s.fcause = 1#4 ∨ s.fcause = 2#4 ∨ s.fcause = 3#4)
    (c : Cause) :
    (raiseFault c s).fcause = 1#4 ∨ (raiseFault c s).fcause = 2#4 ∨ (raiseFault c s).fcause = 3#4 := by
  cases hfault : s.fault with
  | false => exact raiseFault_fcause_first c s hfault ▸ code_cases c
  | true => exact raiseFault_fcause_later c s hfault ▸ hs hfault

/-- A command keeps one of the three causes in FCAUSE while FAULT is 1 (rules R26, R230). -/
theorem exec_cause_when_faulted {i : Instr} {s t : State} (hs : s.Inv) (h : exec i s = .next t) :
    t.fault = true → t.fcause = 1#4 ∨ t.fcause = 2#4 ∨ t.fcause = 3#4 := by
  obtain ⟨-, v, rfl⟩ | ⟨-, c, -, rfl⟩ | ⟨a, b, -, -, rfl⟩ | ⟨a, b, -, -, rfl⟩ := exec_cases i s t h
  · exact hs.cause_when_faulted
  · exact fun _ => raiseFault_fcause_cases hs.cause_when_faulted c
  · exact hs.cause_when_faulted
  · exact fun _ => raiseFault_fcause_cases (s := dropTables s) hs.cause_when_faulted .badRate

/-- A command leaves tables that come from `GEN` at a valid rate, or none (rules R101, R102). -/
theorem exec_tables_generated {i : Instr} {s t : State} (hs : s.Inv) (h : exec i s = .next t) :
    ∀ tables, t.tables = some tables → ∃ rate, validRate rate = true ∧ tables = Config.gen rate := by
  obtain ⟨-, v, rfl⟩ | ⟨-, c, -, rfl⟩ | ⟨a, b, -, hvalid, rfl⟩ | ⟨a, b, -, -, rfl⟩ := exec_cases i s t h
  · exact hs.tables_generated
  · exact hs.tables_generated
  · exact fun tables ht => ⟨rateWord a b, hvalid, (Option.some.inj ht).symm⟩
  · exact fun tables ht => by cases ht

/-- Only an INIT builds tables (rule R29). -/
theorem not_buildsTables_of_not_init {c : Command} (h : ∀ a b, decode c ≠ .init a b) : ¬ buildsTables c = true := by
  rw [buildsTables_iff]
  exact fun ⟨a, b, hd, _⟩ => h a b hd

/-- A command that builds tables leaves BUSY 0, any other leaves BUSY (rules R29, R100). -/
theorem exec_busy {c : Command} {s t : State} (h : exec (decode c) s = .next t) :
    t.busy = if buildsTables c = true then false else s.busy := by
  obtain ⟨hinit, v, rfl⟩ | ⟨hinit, cause, -, rfl⟩ | ⟨a, b, hd, hvalid, rfl⟩ | ⟨a, b, hd, hbad, rfl⟩ :=
    exec_cases (decode c) s t h
  · rw [if_neg (not_buildsTables_of_not_init hinit), respond_busy]
  · rw [if_neg (not_buildsTables_of_not_init hinit), raiseFault_busy]
  · rw [if_pos ((buildsTables_iff c).2 ⟨a, b, hd, hvalid⟩), respond_busy, installTables_busy]
  · have hb : ¬ buildsTables c = true := by simp [buildsTables, hd, hbad]
    rw [if_neg hb, raiseFault_busy, dropTables_busy]

/-! ## The block's work, and the step -/

/-- Under the invariant, the command in flight leaves BUSY 0 (rule R29). -/
theorem exec_inflight_busy {s t : State} {q : Request} (hs : s.Inv) (hq : s.inflight = some q)
    (h : exec (decode q.command) s = .next t) : t.busy = false := by
  rw [exec_busy h]
  split
  · rfl
  · next hb =>
    refine Bool.eq_false_iff.2 fun hbusy => hb ?_
    obtain ⟨q', hq', hbuilds⟩ := hs.busy_iff.1 hbusy
    cases hq.symm.trans hq'
    exact hbuilds

/-- Executing the command in flight and posting its response keeps the invariant. -/
theorem exec_post_keeps_inv {s t : State} {q : Request} (hs : s.Inv) (hq : s.inflight = some q)
    (h : exec (decode q.command) s = .next t) : (post q.port t).Inv where
  cause_when_clean := exec_cause_when_clean (t := t) hs h
  cause_when_faulted := exec_cause_when_faulted (t := t) hs h
  tables_generated := exec_tables_generated (t := t) hs h
  busy_iff := by simp [exec_inflight_busy hs hq h]
  ports_empty := rfl
  answers_coded := by
    obtain ⟨r, hr, hcode⟩ := exec_response h
    rw [post_answers_of_rsp hr, exec_answers h]
    intro x hx
    obtain hold | hnew := List.mem_append.1 hx
    · exact hs.answers_coded x hold
    · obtain rfl := List.mem_singleton.1 hnew
      exact hcode

/-- The block's work keeps the invariant. -/
theorem work_keeps_inv {s t : State} (hs : s.Inv) (h : work s = .next t) : t.Inv := by
  obtain ⟨-, rfl⟩ | ⟨q, u, hq, he, rfl⟩ := work_cases s t h
  · exact hs
  · exact exec_post_keeps_inv hs hq he

/-- Accepting a command keeps the invariant: BUSY is set just for an INIT that builds tables (rule R29). -/
theorem accept_keeps_inv {s : State} (hs : s.Inv) (p : Port) (c : Command) : (accept p c s).Inv :=
  { hs with busy_iff := by simp }

/-- Delivering a response keeps the invariant: those that still wait waited before. -/
theorem deliver_keeps_inv {s : State} (hs : s.Inv) (p : Port) : (deliver p s).Inv :=
  { hs with answers_coded := fun x hx => hs.answers_coded x (List.mem_of_mem_eraseP hx) }

/-- Settles O3: a step is work, an acceptance, a delivery or a reset, and each keeps the invariant. -/
theorem everyStepKeepsTheInvariant : Obligations.EveryStepKeepsTheInvariant := by
  intro s t hs h
  obtain ⟨-, hw⟩ | ⟨rest, -, hw⟩ | ⟨p, c, rest, -, -, rfl⟩ | ⟨p, c, rest, -, -, hw⟩ | ⟨p, rest, -, rfl⟩ |
    ⟨rest, -, rfl⟩ := step_cases s t h
  · exact work_keeps_inv hs hw
  · exact work_keeps_inv (inv_with_inputs hs rest) hw
  · exact accept_keeps_inv (inv_with_inputs hs rest) p c
  · exact work_keeps_inv hs hw
  · exact deliver_keeps_inv (inv_with_inputs hs rest) p
  · exact inv_reset_with_inputs rest

end Sys2Proof.Proofs
end

section
/-!
PROOFS. The encoding of commands and lines: the decoder and the encoder as inverses (rules R72, R73), the bits of one
command of each family, and the words a line issues (rules R83, R84).
-/
namespace Sys2Proof.Proofs

open Sys2Proof Sys2Proof.Machine

/-! ## The decoder and the encoder -/

/-- A command with the CMD word of an instruction and its operand words is that instruction's encoding. -/
theorem encode_eq_of_cmd_toNat {i : Instr} {cmd : Word} {n : Nat} (h : cmd.toNat = n) (hi : (encode i).cmd.toNat = n) :
    encode i = ⟨cmd, (encode i).a, (encode i).b⟩ := by
  rw [BitVec.eq_of_toNat_eq (h.trans hi.symm)]

/-- Every command encodes an instruction: one of the eleven rows by its CMD word, or the reserved row (rule R73). -/
theorem exists_wf_encode_eq (c : Command) : ∃ i : Instr, i.wf = true ∧ encode i = c := by
  obtain ⟨cmd, a, b⟩ := c
  by_cases hreserved : reservedWord cmd = true
  · exact ⟨.reserved cmd a b, hreserved, rfl⟩
  · rw [reservedWord_iff] at hreserved
    obtain ⟨n, hn⟩ : ∃ n, cmd.toNat = n := ⟨_, rfl⟩
    have hlow : 1 ≤ n := by omega
    have hhigh : n ≤ 11 := by omega
    interval_cases n
    · exact ⟨.init a b, rfl, encode_eq_of_cmd_toNat hn rfl⟩
    · exact ⟨.logsin a b, rfl, encode_eq_of_cmd_toNat hn rfl⟩
    · exact ⟨.log a b, rfl, encode_eq_of_cmd_toNat hn rfl⟩
    · exact ⟨.exp a b, rfl, encode_eq_of_cmd_toNat hn rfl⟩
    · exact ⟨.output a b, rfl, encode_eq_of_cmd_toNat hn rfl⟩
    · exact ⟨.pitch a b, rfl, encode_eq_of_cmd_toNat hn rfl⟩
    · exact ⟨.scale a b, rfl, encode_eq_of_cmd_toNat hn rfl⟩
    · exact ⟨.durp a b, rfl, encode_eq_of_cmd_toNat hn rfl⟩
    · exact ⟨.levp a b, rfl, encode_eq_of_cmd_toNat hn rfl⟩
    · exact ⟨.pitp a b, rfl, encode_eq_of_cmd_toNat hn rfl⟩
    · exact ⟨.rdstat a b, rfl, encode_eq_of_cmd_toNat hn rfl⟩

/-- Settles O4: decoding undoes encoding, and every command is the encoding of some instruction. -/
theorem decodeAndEncodeAreInverse : Obligations.DecodeAndEncodeAreInverse := by
  refine ⟨fun i hi => decode_encode hi, fun c => ?_⟩
  obtain ⟨i, hi, rfl⟩ := exists_wf_encode_eq c
  rw [decode_encode hi]
  exact ⟨hi, rfl⟩

/-- Bits that are the encoding of an instruction, in the model's numbering, decode to it (log entry 16). -/
theorem decodeTableWord_of_encode {nbits w : Nat} {i : Instr} (hi : i.wf = true) (h : commandOfBits nbits w = encode i) :
    decodeTableWord nbits w = some i := by
  rw [decodeTableWord, h, decode_encode hi]

/-- Settles O6: the bits of each command are the three words of the instruction's encoding. -/
theorem oneWordOfEachFamilyDecodes : Obligations.OneWordOfEachFamilyDecodes :=
  ⟨decodeTableWord_of_encode rfl (by decide), decodeTableWord_of_encode rfl (by decide),
    decodeTableWord_of_encode rfl (by decide), decodeTableWord_of_encode rfl (by decide),
    decodeTableWord_of_encode rfl (by decide), decodeTableWord_of_encode rfl (by decide),
    decodeTableWord_of_encode rfl (by decide)⟩

/-! ## The words of a line -/

/-- An operand has a word unless it is a name that no response has defined (rules R83, R84). -/
theorem exists_word_of_defined {names : AsmNames} {o : AsmOperand}
    (h : ∀ n, o = .name n → names.lookup n ≠ none) : ∃ x, o.word names = some x := by
  cases o with
  | literal v => exact ⟨u32 v, word_literal names v⟩
  | name n =>
    obtain ⟨r, hr⟩ := Option.ne_none_iff_exists'.1 (h n rfl)
    exact ⟨r.r, by rw [word_name, hr]; rfl⟩

/-- The word of a literal is its value mod 2^32 (rules R11, R83). -/
theorem word_literal_toNat (names : AsmNames) (v : Int) :
    ∃ x : Word, (AsmOperand.literal v).word names = some x ∧ (x.toNat : Int) = v % 2 ^ 32 :=
  ⟨u32 v, word_literal names v, u32_toNat v⟩

/-- Values that are all there, as a list: none of them is missing. -/
theorem exists_map_eq_map_some {α β : Type} {f : α → Option β} {l : List α} (h : ∀ o ∈ l, ∃ x, f o = some x) :
    ∃ words : List β, l.map f = words.map some := by
  induction l with
  | nil => exact ⟨[], rfl⟩
  | cons o l ih =>
    obtain ⟨x, hx⟩ := h o List.mem_cons_self
    obtain ⟨words, hwords⟩ := ih fun o' ho' => h o' (List.mem_cons_of_mem o ho')
    exact ⟨x :: words, by rw [List.map_cons, List.map_cons, hx, hwords]⟩

/-- The value at a place of such a list, or `d` beyond its end. -/
theorem getElem?_elim_of_map_eq {α β : Type} {f : α → Option β} {l : List α} {words : List β}
    (h : l.map f = words.map some) (d : β) (k : Nat) : l[k]?.elim (some d) f = some (words.getD k d) := by
  have hk : l[k]?.map f = words[k]?.map some := by rw [← List.getElem?_map, h, List.getElem?_map]
  rw [List.getD_eq_getElem?_getD, ← Option.getD_map (f := some), ← hk]
  cases l[k]? <;> rfl

/-- A line whose operands have these words is issued. -/
theorem assemble_of_words {names : AsmNames} {c : AsmCommand} {words : List Word}
    (h : c.operands.map (AsmOperand.word names) = words.map some) : c.assemble names = some (issuedCommand c words) := by
  have hall : (words.map some).mapM id = some words := by
    rw [List.mapM_map]
    exact List.mapM_pure.trans (congrArg some words.map_id)
  rw [assemble_eq_issuedCommand, h, hall]
  rfl

/-- The CMD word of an issued command is its mnemonic's (rule R72). -/
theorem issuedCommand_cmd_toNat (c : AsmCommand) (words : List Word) :
    (issuedCommand c words).cmd.toNat = c.opcode := by
  cases c <;> rfl

/-- The ports of an issued command other than `init` (rule R83). -/
theorem issuedCommand_ports {c : AsmCommand} (h : ∀ rate, c ≠ .init rate) (words : List Word) :
    (issuedCommand c words).a = words.getD 0 0#32 ∧ (issuedCommand c words).b = words.getD 1 0#32 := by
  cases c with
  | init rate => exact absurd rfl (h rate)
  | _ => exact ⟨rfl, rfl⟩

/-- Settles O53: with every name defined all operands have words, and the issued command carries them on its ports. -/
theorem linesIssueTheResolvedWords : Obligations.LinesIssueTheResolvedWords := by
  intro names c hdefined
  obtain ⟨words, hwords⟩ := exists_map_eq_map_some (f := AsmOperand.word names) (l := c.operands) fun o ho =>
    exists_word_of_defined fun n hn => hdefined n (hn ▸ ho)
  refine ⟨issuedCommand c words, assemble_of_words hwords, issuedCommand_cmd_toNat c words, fun rate hrate => ?_,
    fun hinit => ?_, word_literal_toNat names⟩
  · subst hrate
    exact rateWord_split rate.encode
  · obtain ⟨ha, hb⟩ := issuedCommand_ports hinit words
    rw [ha, hb]
    exact ⟨getElem?_elim_of_map_eq hwords 0#32 0, getElem?_elim_of_map_eq hwords 0#32 1⟩

/-! ## Recorded names -/

/-- Replacing a name in a line keeps its mnemonic: its command is made from the operand words in the same way. -/
theorem issuedCommand_resolve (n : String) (w : Word) (c : AsmCommand) :
    issuedCommand (c.resolve n w) = issuedCommand c := by
  cases c <;> rfl

/-- Replacing a name in a line replaces it in every operand. -/
theorem operands_resolve (n : String) (w : Word) (c : AsmCommand) :
    (c.resolve n w).operands = c.operands.map (AsmOperand.resolve n w) := by
  cases c <;> rfl

/-- A line assembles with a recorded name as it does with that name replaced by the response word (rule R83). -/
theorem assemble_record (names : AsmNames) (n : String) (r : Response) (c : AsmCommand) :
    c.assemble ((n, r) :: names) = (c.resolve n r.r).assemble names := by
  have hwords : c.operands.map (AsmOperand.word ((n, r) :: names)) =
      (c.operands.map (AsmOperand.resolve n r.r)).map (AsmOperand.word names) := by
    rw [List.map_map]
    exact List.map_congr_left fun o _ => word_record names n r o
  rw [assemble_eq_issuedCommand, assemble_eq_issuedCommand, issuedCommand_resolve, operands_resolve, hwords]

/-- Settles O54: a line with `%dst` records the response in front of all others, a line without records nothing. -/
theorem namesStandForTheLatestResponse : Obligations.NamesStandForTheLatestResponse := by
  rintro names ⟨dst, command⟩ r c
  refine ⟨fun n hn => ?_, fun hn => ?_⟩
  · obtain rfl : dst = some n := hn
    rw [record_named]
    exact ⟨assemble_record names n r c, List.lookup_cons_self⟩
  · obtain rfl : dst = none := hn
    rw [record_unnamed]

end Sys2Proof.Proofs
end

section
/-!
PROOFS. Sample rates (rules R14, R76, R100): the rate check as an interval of encodings, and the exactness of the encoding
of whole numbers below 2^53. Both rest on the binary64 layout (log entry 9).
-/
namespace Sys2Proof.Proofs

open Sys2Proof Sys2Proof.Machine

/-! ## The rate check -/

/-- The check of rule R100 on the three fields of the encoding: the sign is clear, the exponent is not all ones, and the
number is not 0. -/
theorem validRate_iff_fields (w : Rate) :
    validRate w = true ↔ w.msb = false ∧ (w.extractLsb' 52 11).toNat ≠ 0x7FF ∧
      ((w.extractLsb' 52 11).toNat ≠ 0 ∨ (w.extractLsb' 0 52).toNat ≠ 0) := by
  rw [validRate, f64]
  split
  · next hones => split <;> simp [F64.isFinite, hones, -BitVec.extractLsb'_toNat]
  · next hones =>
    split
    · next hzero => simp [F64.isFinite, F64.isPositive, hzero, -BitVec.extractLsb'_toNat]
    · next hzero => simp [F64.isFinite, F64.isPositive, hones, hzero, -BitVec.extractLsb'_toNat]

/-- The three fields of a 64-bit encoding as numbers (rule R14). -/
theorem rate_fields_toNat (w : Rate) :
    w.msb = decide (2 ^ 63 ≤ w.toNat) ∧ (w.extractLsb' 52 11).toNat = w.toNat / 2 ^ 52 % 2 ^ 11 ∧
      (w.extractLsb' 0 52).toNat = w.toNat % 2 ^ 52 := by
  refine ⟨BitVec.msb_eq_decide w, ?_, ?_⟩
  · rw [BitVec.extractLsb'_toNat, Nat.shiftRight_eq_div_pow]
  · rw [BitVec.extractLsb'_toNat, Nat.shiftRight_zero]

/-- The rate check as an interval: above +0.0 and below +infinity. -/
theorem validRate_iff_toNat (w : Rate) : validRate w = true ↔ 0 < w.toNat ∧ w.toNat < 0x7FF0000000000000 := by
  have hlt := w.isLt
  obtain ⟨hsign, hexponent, hfraction⟩ := rate_fields_toNat w
  rw [validRate_iff_fields, hsign, hexponent, hfraction, decide_eq_false_iff_not]
  omega

/-- Settles O8: the ports carry the encoding as B above A (rule R76). -/
theorem rateIsValidByItsEncoding : Obligations.RateIsValidByItsEncoding := by
  intro a b
  have hrate : (rateWord a b).toNat = b.toNat * 2 ^ 32 + a.toNat := toNat_append_eq_add b a
  rw [validRate_iff_toNat, hrate]

/-! ## Whole rates -/

/-- The exponent of a whole number is its bit length less one. -/
theorem floorLog2_whole {n : Nat} (hn : 0 < n) : floorLog2 n 1 = n.log2 := by
  have hlog : 2 ^ n.log2 ≤ n := Nat.log2_self_le hn.ne'
  simp [floorLog2, hlog, show Nat.log2 1 = 0 by decide]

/-- A whole number needs no rounding. -/
theorem roundHalfEven_one (n : Nat) : roundHalfEven n 1 = n := by
  simp [roundHalfEven, Nat.mod_one]

/-- The number moved up until its leading bit stands at place 52 of the significand. -/
theorem two_pow_le_mul_two_pow {n : Nat} (hn : 0 < n) (hmax : n < 2 ^ 53) :
    n.log2 ≤ 52 ∧ 2 ^ 52 ≤ n * 2 ^ (52 - n.log2) ∧ n * 2 ^ (52 - n.log2) < 2 ^ 53 := by
  have hle : n.log2 ≤ 52 := Nat.le_of_lt_succ ((Nat.log2_lt hn.ne').2 hmax)
  have hlow : 2 ^ n.log2 ≤ n := Nat.log2_self_le hn.ne'
  have hhigh : n < 2 ^ (n.log2 + 1) := Nat.lt_log2_self
  refine ⟨hle, ?_, ?_⟩
  · calc 2 ^ 52
      _ = 2 ^ n.log2 * 2 ^ (52 - n.log2) := by rw [← pow_add, Nat.add_sub_cancel' hle]
      _ ≤ n * 2 ^ (52 - n.log2) := Nat.mul_le_mul_right _ hlow
  · calc n * 2 ^ (52 - n.log2)
      _ < 2 ^ (n.log2 + 1) * 2 ^ (52 - n.log2) := Nat.mul_lt_mul_of_pos_right hhigh (Nat.two_pow_pos _)
      _ = 2 ^ 53 := by rw [← pow_add]; congr 1; omega

/-- The encoding of a whole number below 2^53: the biased exponent of its leading bit, and the number moved up to place
52 as the significand with its hidden bit (rule R14). -/
theorem binary64Magnitude_whole {n : Nat} (hn : 0 < n) (hmax : n < 2 ^ 53) :
    binary64Magnitude n 1 = (n.log2 + 1022) * 2 ^ 52 + n * 2 ^ (52 - n.log2) := by
  obtain ⟨hle, hlow, hhigh⟩ := two_pow_le_mul_two_pow hn hmax
  have hexponent : max (floorLog2 n 1) (-1022) = n.log2 := by
    rw [floorLog2_whole hn]
    omega
  have hshift : (-((n.log2 : Int) - 52)).toNat = 52 - n.log2 := by omega
  have hround : (if 0 ≤ (n.log2 : Int) - 52 then roundHalfEven n (1 * 2 ^ ((n.log2 : Int) - 52).toNat)
      else roundHalfEven (n * 2 ^ (-((n.log2 : Int) - 52)).toNat) 1) = n * 2 ^ (52 - n.log2) := by
    split
    · next h =>
      have hlog : n.log2 = 52 := by omega
      simp [hlog, roundHalfEven_one]
    · rw [hshift, roundHalfEven_one]
  simp only [binary64Magnitude, if_neg hn.ne', hexponent, hround]
  omega

/-- Settles O49: a whole number is a normal binary64 datum whose significand is the number moved up, with no bit lost. -/
theorem wholeRatesAreEncodedExactly : Obligations.WholeRatesAreEncodedExactly := by
  intro n hn hmax
  obtain ⟨hle, hlow, hhigh⟩ := two_pow_le_mul_two_pow hn hmax
  refine ⟨n * 2 ^ (52 - n.log2), 52 - n.log2, ?_, rfl⟩
  have hencode : (RealLiteral.encode ⟨false, n, 0⟩).toNat =
      (n.log2 + 1022 + 1) * 2 ^ 52 + (n * 2 ^ (52 - n.log2) - 2 ^ 52) := by
    simp only [RealLiteral.encode, pow_zero, binary64Magnitude_whole hn hmax, BitVec.toNat_ofNat, Bool.false_eq_true,
      if_false]
    omega
  have hsignificand : 2 ^ 52 + (n * 2 ^ (52 - n.log2) - 2 ^ 52) = n * 2 ^ (52 - n.log2) := by omega
  have hexponent : ((n.log2 + 1022 + 1 : Nat) : Int) - 1075 = -((52 - n.log2 : Nat) : Int) := by omega
  have hread := f64_normal _ (n.log2 + 1022) _ (by omega) (by omega) hencode
  rwa [hsignificand, hexponent] at hread

end Sys2Proof.Proofs
end

section
/-!
PROOFS. The laws of LOG, EXP and OUTPUT (41_table_read.md; 42_exp_output.md sections 2 and 3). On non-negative operands the
decompression is one function of a natural number, unclamped, that halves with every 16384 and never rises; the laws of
EXP and OUTPUT are read off it.
-/
namespace Sys2Proof.Proofs

open Sys2Proof Sys2Proof.Machine

/-- A ready block has a table set (rule R23). -/
theorem exists_tables_of_ready {s : State} (h : s.ready = true) : ∃ t, s.tables = some t :=
  Option.isSome_iff_exists.1 h

/-- Two states that differ in the answer alone differ in the answered word. -/
theorem word_eq_of_answering {v w : Word} {s : State}
    (h : (Host.Outcome.next (answering v s) : Result) = .next (answering w s)) : v = w := by
  cases h
  rfl

/-! ## LOG, then EXP -/

/-- Settles O13: an answer leaves the tables, whose LGT meets the tolerance (rule R108). -/
theorem logThenExpRecoversTheOperand : Obligations.LogThenExpRecoversTheOperand := by
  intro a b b' s x hs hready hx
  obtain ⟨t, ht⟩ := exists_tables_of_ready hready
  obtain rfl := index14_eq_of_val hx
  refine ⟨_, _, exec_log_of_tables a b ht,
    exec_exp_of_tables _ b' (s := answering (readLgt t (index14 a)) s) ht, ?_⟩
  cases htol : Config.logTol (index14 a) with
  | none => exact .inl rfl
  | some tol => exact .inr ⟨tol, rfl, (legal_of_inv hs ht).lgt_round_trip (index14 a) tol htol⟩

/-! ## The decompression without its clamp -/

/-- The EXT entry at the remainder by 16384, divided by 2 to the whole quotient. -/
def expAt (t : TableSet) (n : Nat) : Nat :=
  (readExt t ⟨n % 16384, Nat.mod_lt _ (by decide)⟩).toNat / 2 ^ (n / 16384)

/-- Each unit of exponent halves it (rule R140). -/
theorem expAt_add_units (t : TableSet) (n k : Nat) : expAt t (n + 16384 * k) = expAt t n / 2 ^ k := by
  have hindex : (n + 16384 * k) % 16384 = n % 16384 := by omega
  have hquotient : (n + 16384 * k) / 16384 = n / 16384 + k := by omega
  simp only [expAt, hindex, hquotient, pow_add, Nat.div_div_eq_div_mul]

section
variable {t : TableSet} {outShift : Nat} {logTol : Fin 16384 → Option Nat} (ht : t.Legal outShift logTol)
include ht

/-- It is 0 from the exponent 31 on, since entries are below 2^31 (rule R106). -/
theorem expAt_eq_zero {n : Nat} (h : 0x7C000 ≤ n) : expAt t n = 0 := by
  have hentry : (readExt t ⟨n % 16384, Nat.mod_lt _ (by decide)⟩).toNat ≤ 0x7FFFFFFF :=
    (ht.ext_range _).trans (Nat.div_le_self _ _)
  have hpow : 2 ^ 31 ≤ 2 ^ (n / 16384) := Nat.pow_le_pow_right (by decide) (by omega)
  exact Nat.div_eq_of_lt (by omega)

/-- It never rises: inside a unit of exponent by rule R105, at the boundary of two by rule R107. -/
theorem expAt_antitone : Antitone (expAt t) := by
  refine antitone_nat_of_succ_le fun n => ?_
  by_cases hseam : n % 16384 = 16383
  · have hindex : (n + 1) % 16384 = 0 := by omega
    have hquotient : (n + 1) / 16384 = n / 16384 + 1 := by omega
    simp only [expAt, hseam, hindex, hquotient, pow_succ']
    rw [← Nat.div_div_eq_div_mul]
    exact Nat.div_le_div_right ht.ext_seam
  · have hindex : (n + 1) % 16384 = n % 16384 + 1 := by omega
    have hquotient : (n + 1) / 16384 = n / 16384 := by omega
    simp only [expAt, hindex, hquotient]
    exact Nat.div_le_div_right (ht.ext_antitone (n % 16384) (by omega))

/-- On a non-negative operand the decompression is that function: the clamp cuts only what is 0 (rule R140). -/
theorem decompressed_eq_expAt {l : Word} (h : l.toNat < 2 ^ 31) : decompressed t l = expAt t l.toNat := by
  by_cases htail : 0x7C000 ≤ l.toNat
  · rw [decompressed_eq_zero_of_tail ht htail h, expAt_eq_zero ht htail]
  · have hexponent : min (l.toNat / 16384) 31 = l.toNat / 16384 := by omega
    rw [decompressed, if_pos h, hexponent]
    rfl

end

/-- On a negative operand the decompression is the entry itself (rule R140). -/
theorem expCore_of_neg (t : TableSet) {l : Word} (h : 2 ^ 31 ≤ l.toNat) : expCore t l = readExt t (index14 l) := by
  refine BitVec.eq_of_toNat_eq ?_
  rw [expCore_toNat_eq_decompressed, decompressed_eq, if_neg (by omega), pow_zero, Nat.div_one]

/-- Settles O16: on non-negative operands EXP is the function that never rises. -/
theorem expIsNonIncreasing : Obligations.ExpIsNonIncreasing := by
  intro a a' b b' v v' s hs hready hle hmax h h'
  obtain ⟨t, ht⟩ := exists_tables_of_ready hready
  have hlegal := legal_of_inv hs ht
  obtain rfl := word_eq_of_answering ((exec_exp_of_tables a b ht).symm.trans h)
  obtain rfl := word_eq_of_answering ((exec_exp_of_tables a' b' ht).symm.trans h')
  rw [expCore_toNat_eq_decompressed, expCore_toNat_eq_decompressed, decompressed_eq_expAt hlegal hmax,
    decompressed_eq_expAt hlegal (hle.trans_lt hmax)]
  exact expAt_antitone hlegal hle

/-- Settles O17: 0x4000 is one unit of exponent, and a negative operand has none. -/
theorem expHalvesPerUnitOfExponent : Obligations.ExpHalvesPerUnitOfExponent := by
  refine fun a b s t hs ht => ⟨fun ha => ?_, fun i ha hi => ?_⟩
  · have hlegal := legal_of_inv hs ht
    have hsum : (a + 0x4000#32).toNat = a.toNat + 16384 * 1 := BitVec.toNat_add_of_lt (by simp; omega)
    refine ⟨_, _, exec_exp_of_tables a b ht, exec_exp_of_tables (a + 0x4000#32) b ht, ?_⟩
    rw [expCore_toNat_eq_decompressed, expCore_toNat_eq_decompressed, decompressed_eq_expAt hlegal (by omega),
      decompressed_eq_expAt hlegal (by omega), hsum, expAt_add_units, pow_one]
  · obtain rfl := index14_eq_of_val hi
    rw [exec_exp_of_tables a b ht, expCore_of_neg t ha]
    rfl

/-! ## ATTEN -/

/-- The attenuation does not rise with the envelope (rule R144). -/
theorem attenuation_antitone : Antitone attenuation := by
  intro env env' h
  simp only [attenuation]
  split_ifs <;> omega

/-- The attenuation lies in 0 to 2^24 (rule R144). -/
theorem attenuation_range (env : Int) : 0 ≤ attenuation env ∧ attenuation env ≤ 0x1000000 := by
  simp only [attenuation]
  split_ifs <;> omega

/-- At EG_MIN and below the attenuation is greatest (rule R144). -/
theorem attenuation_of_le_min {env : Int} (h : env ≤ -8388608) : attenuation env = 0x1000000 := by
  simp only [attenuation]
  split_ifs <;> omega

/-- Between EG_MIN and EG_MAX the attenuation is the distance to 2^23 (rule R144). -/
theorem attenuation_between {env : Int} (hlow : -8388608 ≤ env) (hhigh : env ≤ 8388607) :
    attenuation env = 8388608 - env := by
  rw [attenuation, if_neg (by omega), if_neg (by omega)]

/-- At EG_MAX and above the shifted attenuation is 0 (rules R144, R145). -/
theorem attenuation_div_of_max_le {env : Int} (h : 8388607 ≤ env) : attenuation env / 64 = 0 := by
  simp only [attenuation]
  split_ifs <;> omega

/-- Settles O52: the machine's ATTEN is the attenuation in numbers. -/
theorem attenuationIsClampedAndNonIncreasing : Obligations.AttenuationIsClampedAndNonIncreasing := by
  intro env
  obtain ⟨hnonneg, hle⟩ := attenuation_range env.toInt
  rw [atten_eq_attenuation]
  refine ⟨fun h => attenuation_of_le_min h.le, fun h => ?_, fun hlow hhigh => ?_, hnonneg, hle, fun env' h => ?_⟩
  · rw [attenuation, if_neg (by omega), if_pos h]
  · rw [attenuation_between hlow hhigh]
    omega
  · rw [atten_eq_attenuation]
    exact attenuation_antitone h

/-! ## OUTPUT -/

/-- Where it does not wrap, the sum of OUTPUT is a non-negative operand of the decompression (rules R145, R148). -/
theorem outputSum_toNat {a b : Word} (hlow : 0 ≤ a.toInt) (hhigh : a.toInt + 0x40000 ≤ 2 ^ 31 - 1) :
    ((outputSum a b).toNat : Int) = a.toInt + attenuation b.toInt / 64 ∧ (outputSum a b).toNat < 2 ^ 31 := by
  obtain ⟨hnonneg, hle⟩ := attenuation_range b.toInt
  have hsum : ((outputSum a b).toNat : Int) = (a.toInt + attenuation b.toInt / 64) % 2 ^ 32 := by
    rw [← atten_eq_attenuation]
    exact u32_toNat _
  omega

/-- Settles O20: a higher envelope attenuates less, the sum is lower, and the decompression does not fall. -/
theorem outputIsNonDecreasingInTheEnvelope : Obligations.OutputIsNonDecreasingInTheEnvelope := by
  intro a b b' v v' s hs hready hlow hhigh hle h h'
  obtain ⟨t, ht⟩ := exists_tables_of_ready hready
  have hlegal := legal_of_inv hs ht
  obtain rfl := word_eq_of_answering ((exec_output_of_tables a b ht).symm.trans h)
  obtain rfl := word_eq_of_answering ((exec_output_of_tables a b' ht).symm.trans h')
  obtain ⟨hsum, hlt⟩ := outputSum_toNat (b := b) hlow hhigh
  obtain ⟨hsum', hlt'⟩ := outputSum_toNat (b := b') hlow hhigh
  have hatten : attenuation b'.toInt ≤ attenuation b.toInt := attenuation_antitone hle
  have hsums : (outputSum a b').toNat ≤ (outputSum a b).toNat := by omega
  rw [outputValue_toNat_of_legal hlegal, outputValue_toNat_of_legal hlegal, decompressed_eq_expAt hlegal hlt,
    decompressed_eq_expAt hlegal hlt']
  exact Nat.mul_le_mul_right _ (expAt_antitone hlegal hsums)

/-- At EG_MAX and above the sum of OUTPUT is the input itself (rule R145). -/
theorem outputSum_of_max_le (a : Word) {b : Word} (h : 8388607 ≤ b.toInt) : outputSum a b = a := by
  rw [outputSum, atten_eq_attenuation, attenuation_div_of_max_le h, add_zero]
  exact BitVec.ofInt_toInt

/-- A word that reads as non-negative reads as its number (rule R11). -/
theorem toInt_eq_toNat_of_nonneg {a : Word} (h : 0 ≤ a.toInt) : a.toInt = a.toNat := by
  have hread : a.toInt = if a.toNat < 2 ^ 31 then (a.toNat : Int) else (a.toNat : Int) - 2 ^ 32 := s32_eq a
  have hlt := a.isLt
  split at hread <;> omega

/-- At EG_MIN and below OUTPUT adds sixteen units of exponent to a sum that does not wrap (rules R144, R145). -/
theorem outputSum_of_le_min {a b : Word} (hb : b.toInt ≤ -8388608) (hlow : 0 ≤ a.toInt)
    (hhigh : a.toInt + 0x40000 ≤ 2 ^ 31 - 1) :
    (outputSum a b).toNat = a.toNat + 16384 * 16 ∧ (outputSum a b).toNat < 2 ^ 31 := by
  obtain ⟨hsum, hlt⟩ := outputSum_toNat (b := b) hlow hhigh
  rw [attenuation_of_le_min hb, toInt_eq_toNat_of_nonneg hlow] at hsum
  exact ⟨by omega, hlt⟩

/-- At EG_MIN and below OUTPUT decompresses its input and divides by 2^16 more. -/
theorem decompressed_outputSum_of_le_min {t : TableSet} (ht : t.Legal Config.outShift Config.logTol) {a b : Word}
    (hb : b.toInt ≤ -8388608) (hlow : 0 ≤ a.toInt) (hhigh : a.toInt + 0x40000 ≤ 2 ^ 31 - 1) :
    decompressed t (outputSum a b) = decompressed t a / 2 ^ 16 := by
  obtain ⟨hsum, hlt⟩ := outputSum_of_le_min hb hlow hhigh
  rw [decompressed_eq_expAt ht hlt, decompressed_eq_expAt ht (l := a) (by omega), hsum, expAt_add_units]

/-- Sixteen units of exponent leave at most 15 bits of a result that fits 31 (rule R146). -/
theorem div_mul_two_pow_le {d k : Nat} (h : d * 2 ^ k ≤ 0x7FFFFFFF) : d / 2 ^ 16 * 2 ^ k ≤ 0x7FFF :=
  calc d / 2 ^ 16 * 2 ^ k
    _ ≤ d * 2 ^ k / 2 ^ 16 := by
      rw [mul_comm, mul_comm d]
      exact Nat.mul_div_le_mul_div_assoc ..
    _ ≤ 0x7FFFFFFF / 2 ^ 16 := Nat.div_le_div_right h

/-- Settles O21: at the upper end the sum is the input, at the lower end it is sixteen units of exponent above. -/
theorem outputAtTheEndsOfTheEnvelope : Obligations.OutputAtTheEndsOfTheEnvelope := by
  intro a b s t hs ht
  have hlegal := legal_of_inv hs ht
  refine ⟨fun hb => ⟨_, exec_output_of_tables a b ht, ?_⟩, fun hb hlow hhigh => ⟨_, exec_output_of_tables a b ht, ?_⟩⟩
  · rw [outputValue_toNat_of_legal hlegal, outputSum_of_max_le a hb]
  · obtain ⟨hsum, hlt⟩ := outputSum_of_le_min hb hlow hhigh
    have hrange := decompressed_mul_le hlegal a
    have hvalue := outputValue_toNat_of_legal hlegal a b
    rw [decompressed_outputSum_of_le_min hlegal hb hlow hhigh] at hvalue
    refine ⟨fun _ => hvalue, hvalue.trans_le (div_mul_two_pow_le hrange), fun hshift => ?_,
      fun htail => BitVec.eq_of_toNat_eq ?_⟩
    · rw [hshift] at hvalue hrange
      omega
    · rw [outputValue_toNat_of_legal hlegal, decompressed_eq_zero_of_tail hlegal (by omega) hlt, Nat.zero_mul]
      rfl

end Sys2Proof.Proofs
end

section
/-!
PROOFS. The laws of PITCH and SCALE (43_pitch_scale.md sections 1 and 2): what a step of one octave does to the operand, and
from it to the answer.
-/
namespace Sys2Proof.Proofs

open Sys2Proof Sys2Proof.Machine

/-! ## Sums of operands -/

/-- Where the sum of two operands is in the range of s32, no carry is lost (rule R11). -/
theorem toInt_add_of_range {a b : Word} (hlow : -2 ^ 31 ≤ a.toInt + b.toInt) (hhigh : a.toInt + b.toInt < 2 ^ 31) :
    (a + b).toInt = a.toInt + b.toInt := by
  rw [BitVec.toInt_add]
  exact Int.bmod_eq_of_le (by omega) (by omega)

/-! ## PITCH -/

/-- Octaves 0 to 31 multiply the note ratio (rule R170). -/
theorem pitchValue_toNat_of_nonneg (t : TableSet) {f : Word} {o : Nat} (h : f.toInt / 4096 = o) (ho : o ≤ 31) :
    (pitchValue t f).toNat = (readNtt t (index12 f)).toNat * 2 ^ o % 2 ^ 32 := by
  rw [pitchValue_of_octave_up t h, lsl32_toNat _ _ ho]

/-- Octaves 0 to -31 divide the note ratio (rule R170). -/
theorem pitchValue_toNat_of_nonpos (t : TableSet) {f : Word} {o : Nat} (h : f.toInt / 4096 = -(o : Int)) (ho : o ≤ 31) :
    (pitchValue t f).toNat = (readNtt t (index12 f)).toNat / 2 ^ o := by
  cases o with
  | zero =>
    rw [pitchValue_toNat_of_nonneg t (o := 0) (by simpa using h) ho, pow_zero, Nat.mul_one, Nat.div_one,
      Nat.mod_eq_of_lt (readNtt t (index12 f)).isLt]
  | succ o => rw [pitchValue_of_octave_down t h (by omega), lsr32_toNat _ _ ho]

/-- An octave step keeps the index into NTT (rule R51). -/
theorem index12_add (f : Word) {d : Word} (hd : d.toNat % 4096 = 0) : index12 (f + d) = index12 f := by
  refine index12_eq_of_val ?_
  rw [index12_val, BitVec.toNat_add]
  omega

/-- Adding 0x1000 raises the octave by one, where the sum is in range. -/
theorem octave_add {f : Word} (h : f.toInt / 4096 ≤ 30) : (f + 0x1000#32).toInt / 4096 = f.toInt / 4096 + 1 := by
  have hlow := BitVec.le_toInt f
  have hstep : (0x1000#32 : Word).toInt = 4096 := by decide
  rw [toInt_add_of_range (by omega) (by omega), hstep]
  omega

/-- Subtracting 0x1000 lowers the octave by one, where the difference is in range. -/
theorem octave_sub {f : Word} (h : -30 ≤ f.toInt / 4096) : (f - 0x1000#32).toInt / 4096 = f.toInt / 4096 - 1 := by
  have hhigh := BitVec.toInt_lt (x := f)
  have hstep : (-0x1000#32 : Word).toInt = -4096 := by decide
  rw [BitVec.sub_eq_add_neg, toInt_add_of_range (by omega) (by omega), hstep]
  omega

/-- Law (a) of PITCH: from a non-negative octave, one octave up doubles mod 2^32. -/
theorem pitchValue_up_of_nonneg (t : TableSet) {f : Word} (hlow : 0 ≤ f.toInt / 4096) (hhigh : f.toInt / 4096 ≤ 30) :
    (pitchValue t (f + 0x1000#32)).toNat = 2 * (pitchValue t f).toNat % 2 ^ 32 := by
  obtain ⟨o, ho⟩ := Int.eq_ofNat_of_zero_le hlow
  have hup : (f + 0x1000#32).toInt / 4096 = (o + 1 : Nat) := by
    rw [octave_add hhigh]
    omega
  rw [pitchValue_toNat_of_nonneg t ho (by omega), pitchValue_toNat_of_nonneg t hup (by omega),
    index12_add f (by decide), pow_succ, Nat.mul_mod_mod]
  ring_nf

/-- Law (b) of PITCH: from an octave of at most 0, one octave down halves. -/
theorem pitchValue_down_of_nonpos (t : TableSet) {f : Word} (hhigh : f.toInt / 4096 ≤ 0) (hlow : -30 ≤ f.toInt / 4096) :
    (pitchValue t (f - 0x1000#32)).toNat = (pitchValue t f).toNat / 2 := by
  obtain ⟨o, ho⟩ := Int.exists_eq_neg_ofNat hhigh
  have hdown : (f - 0x1000#32).toInt / 4096 = -((o + 1 : Nat) : Int) := by
    rw [octave_sub hlow]
    omega
  rw [pitchValue_toNat_of_nonpos t ho (by omega), pitchValue_toNat_of_nonpos t hdown (by omega), BitVec.sub_eq_add_neg,
    index12_add f (by decide), pow_succ, Nat.div_div_eq_div_mul]

/-- Law (c) of PITCH: from a negative octave, one octave up gives what halves to the answer. -/
theorem pitchValue_eq_half_of_up (t : TableSet) {f : Word} (hhigh : f.toInt / 4096 < 0) (hlow : -31 ≤ f.toInt / 4096) :
    (pitchValue t f).toNat = (pitchValue t (f + 0x1000#32)).toNat / 2 := by
  have hup := octave_add (f := f) (by omega)
  have hback : f + 0x1000#32 - 0x1000#32 = f := BitVec.add_sub_cancel f 0x1000#32
  have h := pitchValue_down_of_nonpos t (f := f + 0x1000#32) (by omega) (by omega)
  rwa [hback] at h

/-- Settles O23, by the three laws of the octave step. -/
theorem pitchDoublesPerOctave : Obligations.PitchDoublesPerOctave := by
  intro f b s hready
  obtain ⟨t, ht⟩ := exists_tables_of_ready hready
  refine ⟨_, _, _, exec_pitch_of_tables f b ht, exec_pitch_of_tables (f + 0x1000#32) b ht,
    exec_pitch_of_tables (f - 0x1000#32) b ht, pitchValue_up_of_nonneg t, pitchValue_down_of_nonpos t,
    fun hhigh hlow => ?_⟩
  have h := pitchValue_eq_half_of_up t hhigh hlow
  omega

/-! ## SCALE -/

/-- The sum of SCALE for a magnitude: the entry of its semitone, and 4096 per octave (rule R172). -/
def semitoneSum (t : TableSet) (m : Nat) : Nat :=
  (readSct t ⟨m % 12, Nat.mod_lt _ (by decide)⟩).toNat + 4096 * (m / 12)

/-- SCALE of a non-negative note is the sum of its magnitude mod 2^32. -/
theorem scaleValue_eq_of_nonneg (t : TableSet) {a : Word} (h : 0 ≤ a.toInt) :
    scaleValue t a = u32 (semitoneSum t a.toInt.natAbs) :=
  scaleValue_of_nonneg t h

/-- SCALE of a negative note is the negated sum of its magnitude mod 2^32. -/
theorem scaleValue_eq_of_neg (t : TableSet) {a : Word} (h : a.toInt < 0) :
    scaleValue t a = -u32 (semitoneSum t a.toInt.natAbs) :=
  (scaleValue_of_neg t h).trans (u32_neg _)

/-- The sum of 0 is 0 (rule R110). -/
theorem semitoneSum_zero {t : TableSet} (h : readSct t 0 = 0#32) : semitoneSum t 0 = 0 := by
  change (readSct t 0).toNat + 4096 * (0 / 12) = 0
  rw [h]
  rfl

/-- An octave adds 4096 to the sum. -/
theorem semitoneSum_add_octave (t : TableSet) (m : Nat) : semitoneSum t (m + 12) = semitoneSum t m + 4096 := by
  have hindex : (m + 12) % 12 = m % 12 := by omega
  simp only [semitoneSum, hindex]
  omega

/-- SCALE of 0 is 0 (rule R110). -/
theorem scaleValue_zero {t : TableSet} (h : readSct t 0 = 0#32) : scaleValue t 0#32 = 0#32 := by
  rw [scaleValue_eq_of_nonneg t (by decide)]
  exact congrArg (fun m : Nat => u32 m) (semitoneSum_zero h)

/-- An octave up from a non-negative note adds 4096 to SCALE. -/
theorem scaleValue_add_octave (t : TableSet) {a : Word} (h : a.toNat ≤ 2 ^ 31 - 13) :
    scaleValue t (a + 12#32) = scaleValue t a + 4096#32 := by
  have ha : a.toInt = a.toNat := BitVec.toInt_eq_toNat_of_lt (by omega)
  have hstep : (12#32 : Word).toInt = 12 := by decide
  have hsum : (a + 12#32).toInt = a.toInt + 12 := by
    rw [toInt_add_of_range (by omega) (by omega), hstep]
  have hmagnitude : (a.toInt + 12).natAbs = a.toInt.natAbs + 12 := by omega
  rw [scaleValue_eq_of_nonneg t (by omega), scaleValue_eq_of_nonneg t (a := a) (by omega), hsum, hmagnitude,
    semitoneSum_add_octave, Nat.cast_add, u32, BitVec.ofInt_add]
  rfl

/-- Negating a note negates SCALE, but for -2^31, which is its own negation. -/
theorem scaleValue_neg {t : TableSet} (hzero : readSct t 0 = 0#32) {a : Word} (h : a ≠ 0x80000000#32) :
    scaleValue t (-a) = -scaleValue t a := by
  have hneg : (-a).toInt = -a.toInt := BitVec.toInt_neg_of_ne_intMin h
  obtain ha | ha | ha := lt_trichotomy a.toInt 0
  · rw [scaleValue_eq_of_neg t ha, scaleValue_eq_of_nonneg t (by omega), hneg, Int.natAbs_neg, BitVec.neg_neg]
  · obtain rfl : a = 0#32 := BitVec.eq_of_toInt_eq ha
    rw [BitVec.neg_zero, scaleValue_zero hzero, BitVec.neg_zero]
  · rw [scaleValue_eq_of_nonneg t ha.le, scaleValue_eq_of_neg t (by omega), hneg, Int.natAbs_neg]

/-- Settles O25: note 12 is an octave above 0; the other clauses are the two laws of the sum. -/
theorem scaleIsAntisymmetricWithOctaveSteps : Obligations.ScaleIsAntisymmetricWithOctaveSteps := by
  intro n b s hs hready
  obtain ⟨t, ht⟩ := exists_tables_of_ready hready
  have hzero : readSct t 0 = 0#32 := (legal_of_inv hs ht).sct_zero
  have htwelve : scaleValue t 12#32 = 4096#32 := by
    have h := scaleValue_add_octave t (a := 0#32) (by decide)
    rwa [scaleValue_zero hzero, BitVec.zero_add, BitVec.zero_add] at h
  refine ⟨?_, ?_, scaleValue t n, exec_scale_of_tables n b ht, fun hn => ?_, fun hn => ?_⟩
  · rw [exec_scale_of_tables 0#32 b ht, scaleValue_zero hzero]
  · rw [exec_scale_of_tables 12#32 b ht, htwelve]
  · rw [exec_scale_of_tables (-n) b ht, scaleValue_neg hzero hn]
  · rw [exec_scale_of_tables (n + 12#32) b ht, scaleValue_add_octave t hn]

end Sys2Proof.Proofs
end

section
/-!
PROOFS. The block (rules R55, R56, R82, R260, R265): each kind of step, what a command sees of the block, the responses
that wait at the ports, and schedules of offers as one total order.
-/
namespace Sys2Proof.Proofs

open Sys2Proof Sys2Proof.Machine

/-! ## One step, by the next input -/

section
variable {s : State}

/-- With no input the block works. -/
theorem step_of_no_input (h : s.inputs = []) : step s = work s := by
  simp [step, react, h]

/-- On a quiet edge the block works. -/
theorem step_of_clock {rest : List Event} (h : s.inputs = .clock :: rest) :
    step s = work { s with inputs := rest } := by
  simp [step, react, h]

/-- A ready block accepts the offered command. -/
theorem step_of_offer_ready {p : Port} {c : Command} {rest : List Event} (h : s.inputs = .command p c :: rest)
    (hready : s.cmdReady = true) : step s = .next (accept p c { s with inputs := rest }) := by
  simp [step, react, h, hready]

/-- A block that is not ready works, and the command stays offered. -/
theorem step_of_offer_not_ready {p : Port} {c : Command} {rest : List Event} (h : s.inputs = .command p c :: rest)
    (hready : s.cmdReady = false) : step s = work s := by
  simp [step, react, h, hready]

/-- A take delivers. -/
theorem step_of_take {p : Port} {rest : List Event} (h : s.inputs = .take p :: rest) :
    step s = .next (deliver p { s with inputs := rest }) := by
  simp [step, react, h]

/-- A reset resets. -/
theorem step_of_reset {rest : List Event} (h : s.inputs = .reset :: rest) :
    step s = .next (assertReset { s with inputs := rest }) := by
  simp [step, react, h]

/-- A block with a command in flight is not ready (log entry 4). -/
theorem cmdReady_of_inflight {q : Request} (h : s.inflight = some q) : s.cmdReady = false := by
  simp [State.cmdReady, h]

/-- A busy block is not ready (rule R265). -/
theorem cmdReady_of_busy (h : s.busy = true) : s.cmdReady = false := by
  simp [State.cmdReady, h]

/-- A block that is not busy and holds no command is ready. -/
theorem cmdReady_of_free (hbusy : s.busy = false) (hinflight : s.inflight = none) : s.cmdReady = true := by
  simp [State.cmdReady, hbusy, hinflight]

/-- A ready block holds no command. -/
theorem inflight_of_cmdReady (h : s.cmdReady = true) : s.inflight = none := by
  simpa [State.cmdReady] using (Bool.and_eq_true_iff.1 h).2

end

/-- STATUS is 0 after reset (rule R32). -/
theorem reset_status : State.reset.status = 0#32 := by decide

/-- Settles O1: the reset step asserts the reset state and keeps the later inputs. -/
theorem assertingResetGivesTheResetState : Obligations.AssertingResetGivesTheResetState :=
  ⟨fun _ _ h => ⟨_, step_of_reset h, rfl, rfl, rfl, rfl, rfl, reset_status, rfl, rfl, rfl, rfl⟩, rfl, rfl, rfl, rfl,
    reset_status, rfl, rfl⟩

/-- Settles O51: the step lemma of rule R28. -/
theorem onlyInitAndResetChangeTheTables : Obligations.OnlyInitAndResetChangeTheTables := fun _ _ => step_tables

/-- Settles O39: without input, on a quiet edge, and with an offer that is not accepted, the block works. -/
theorem stepRunsTheDecodedCommand : Obligations.StepRunsTheDecodedCommand := by
  rintro s t q i hq rfl
  refine ⟨fun hi he => ?_, fun rest hi he => ?_, fun p c rest hi he => ?_⟩
  · rw [step_of_no_input hi, work_of_next s t q hq he]
  · rw [step_of_clock hi, work_of_next { s with inputs := rest } t q hq he]
  · rw [step_of_offer_not_ready hi (cmdReady_of_inflight hq), work_of_next s t q hq he]

/-- Settles O40: the placed command is in flight and a quiet edge comes next. -/
theorem placedCommandRunsNext : Obligations.PlacedCommandRunsNext := by
  intro s t nbits w i hi he
  obtain rfl := Option.some.inj hi
  exact (stepRunsTheDecodedCommand (s.withFetchWord nbits w) t ⟨firstPort, commandOfBits nbits w⟩ _ rfl rfl).2.1
    s.inputs rfl he

/-- Settles O41: acceptance puts the command in flight and sets BUSY just for an INIT that builds tables. -/
theorem readyBlockAcceptsTheOffer : Obligations.ReadyBlockAcceptsTheOffer := fun _ _ c _ hi hready =>
  ⟨_, step_of_offer_ready hi hready, rfl, buildsTables_iff c⟩

/-- Settles O42: a busy block works; under the invariant it works on an INIT with a valid rate. -/
theorem busyHoldsEveryCommand : Obligations.BusyHoldsEveryCommand := by
  intro s p c rest hi hbusy
  have hready := cmdReady_of_busy hbusy
  have hstep := step_of_offer_not_ready hi hready
  refine ⟨hready, fun t ht => ?_, fun hs => ?_⟩
  · rw [hstep] at ht
    exact ⟨work_inputs ht, .inl (work_inflight ht)⟩
  · obtain ⟨q, hq, hbuilds⟩ := hs.busy_iff.1 hbusy
    obtain ⟨a, b, hdecode, hvalid⟩ := (buildsTables_iff q.command).1 hbuilds
    have hexec := exec_init_of_validRate hvalid s
    rw [← hdecode] at hexec
    exact ⟨q, a, b, _, hq, hdecode, hvalid, hstep.trans (work_of_next s _ q hq hexec), rfl, rfl, rfl, rfl, rfl⟩

/-! ## What a command sees of the block -/

/-- `s` with these values of BUSY, the command in flight and the inputs. -/
def withControl (busy : Bool) (inflight : Option Request) (inputs : List Event) (s : State) : State :=
  { s with busy := busy, inflight := inflight, inputs := inputs }

/-- A command sees neither BUSY nor the command in flight nor the inputs: on a state that differs there it does the same,
and of the three it writes BUSY alone, where it builds tables (rules R29, R249). -/
theorem exec_withControl {c : Command} {s t : State} (h : exec (decode c) s = .next t) (busy : Bool)
    (inflight : Option Request) (inputs : List Event) :
    exec (decode c) (withControl busy inflight inputs s) =
      .next (withControl (if buildsTables c = true then false else busy) inflight inputs t) := by
  obtain ⟨hinit, v, he⟩ | ⟨hinit, cause, he⟩ | ⟨a, b, hd, hvalid, he⟩ | ⟨a, b, hd, hbad, he⟩ := exec_uniform (decode c) s
  · cases h.symm.trans (he s rfl fun _ _ _ => rfl)
    rw [he (withControl busy inflight inputs s) rfl fun _ _ _ => rfl, if_neg (not_buildsTables_of_not_init hinit)]
    rfl
  · cases h.symm.trans (he s rfl)
    rw [he (withControl busy inflight inputs s) rfl, if_neg (not_buildsTables_of_not_init hinit)]
    rfl
  · cases h.symm.trans (he s)
    rw [he, if_pos ((buildsTables_iff c).2 ⟨a, b, hd, hvalid⟩)]
    rfl
  · have hb : ¬ buildsTables c = true := by simp [buildsTables, hd, hbad]
    cases h.symm.trans (he s)
    rw [he, if_neg hb]
    rfl

/-- Work on a command in flight, whatever BUSY and the inputs. -/
theorem work_withControl {s t : State} {q : Request} (h : exec (decode q.command) s = .next t) (busy : Bool)
    (inputs : List Event) :
    work (withControl busy (some q) inputs s) =
      .next (post q.port (withControl (if buildsTables q.command = true then false else busy) (some q) inputs t)) :=
  work_of_next _ _ q rfl (exec_withControl h busy (some q) inputs)

/-- Settles O44: the command does the same from either port, and its response is posted at its own. -/
theorem requestersAreInvisible : Obligations.RequestersAreInvisible := by
  intro s p p' c hq hi
  obtain ⟨u, hu⟩ := exists_exec_next (decode c) s
  obtain ⟨r, hr, -⟩ := exec_response hu
  have hother := work_withControl (q := ⟨p', c⟩) hu s.busy s.inputs
  rw [← exec_busy hu] at hother
  have hanswers (p : Port) : (post p u).answers = s.answers ++ [⟨p, r⟩] := exec_answers hu ▸ post_answers_of_rsp hr p
  refine ⟨post p u, r, ?_, hanswers p, ?_⟩
  · rw [step_of_no_input hi, work_of_next s u ⟨p, c⟩ hq hu]
  · refine (step_of_no_input (s := { s with inflight := some ⟨p', c⟩ }) hi).trans (hother.trans ?_)
    rw [← hanswers p', ← exec_inputs hu]
    rfl

/-! ## The responses of one port -/

/-- The responses at a port are read from the waiting ones alone. -/
theorem answersAt_congr {s t : State} (h : t.answers = s.answers) (p : Port) : t.answersAt p = s.answersAt p := by
  rw [State.answersAt, State.answersAt, h]

/-- Executing a command and posting its response adds it to its own port's (rule R82). -/
theorem exec_post_answersAt {i : Instr} {s t : State} {r : Response} (h : exec i s = .next t) (hr : t.rsp = some r)
    (q p : Port) : (post q t).answersAt p = s.answersAt p ++ (if q = p then [r] else []) := by
  rw [answersAt_post p q r t hr, answersAt_congr (exec_answers h)]

/-- What work does to the responses at a port, whatever inputs are left to it: nothing where no command is in flight, or
one of another port; else the command's own response joins them. -/
theorem work_answersAt {s t : State} {inputs : List Event} (h : work { s with inputs := inputs } = .next t) (p : Port) :
    (s.inflight = none → t.answersAt p = s.answersAt p) ∧
    ∀ q, s.inflight = some q →
      (q.port ≠ p → t.answersAt p = s.answersAt p) ∧
      (q.port = p → ∃ (u : State) (r : Response), exec (decode q.command) s = .next u ∧ u.rsp = some r ∧
        t.answersAt p = s.answersAt p ++ [r]) := by
  refine ⟨fun hnone => ?_, fun q hq => ?_⟩
  · rw [work_of_idle _ (by exact hnone)] at h
    cases h
    rfl
  · obtain ⟨u, hu⟩ := exists_exec_next (decode q.command) s
    obtain ⟨r, hr, -⟩ := exec_response hu
    have hwork := work_withControl hu s.busy inputs
    rw [withControl, ← hq] at hwork
    cases h.symm.trans hwork
    have hanswers := exec_post_answersAt (exec_withControl hu s.busy (some q) inputs) hr q.port p
    refine ⟨fun hp => ?_, fun hp => ⟨u, r, hu, hr, ?_⟩⟩
    · rw [if_neg hp, List.append_nil] at hanswers
      exact hanswers
    · rw [if_pos hp] at hanswers
      exact hanswers

/-- Settles O43, by the kinds of step: a delivery, or work, or an acceptance with nothing in flight. -/
theorem responsesKeepTheirOrder : Obligations.ResponsesKeepTheirOrder := by
  intro s t p hr h
  refine ⟨fun rest hi => ?_, fun p' rest hi hp => ?_, fun htake => ?_⟩
  · cases h.symm.trans (step_of_take hi)
    exact (answersAt_deliver p p _).trans (if_pos rfl)
  · cases h.symm.trans (step_of_take hi)
    exact (answersAt_deliver p p' _).trans (if_neg hp)
  · obtain ⟨-, hw⟩ | ⟨rest, -, hw⟩ | ⟨p', c, rest, -, hready, rfl⟩ | ⟨p', c, rest, -, -, hw⟩ | ⟨p', rest, hi, -⟩ |
      ⟨rest, hi, -⟩ := step_cases s t h
    · exact work_answersAt (s := s) hw p
    · exact work_answersAt hw p
    · have hnone := inflight_of_cmdReady hready
      exact ⟨fun _ => rfl, fun q hq => by simp [hnone] at hq⟩
    · exact work_answersAt (s := s) hw p
    · exact absurd hi (htake p' rest)
    · exact absurd hi (hr rest)

/-- Settles O50: a take is one step that drops the first waiting response of its port. -/
theorem takingDeliversTheOldestResponse : Obligations.TakingDeliversTheOldestResponse := by
  intro s p rest hi
  have hown : (deliver p { s with inputs := rest }).answersAt p = (s.answersAt p).tail :=
    (answersAt_deliver p p _).trans (if_pos rfl)
  refine ⟨_, step_of_take hi, rfl, fun hvalid => ?_, fun hvalid => ?_, fun p' hp => ?_⟩
  · obtain ⟨r, later, hr⟩ := List.exists_cons_of_ne_nil ((rspValid_iff s p).1 hvalid)
    have hlength : (s.answers.eraseP fun x => x.port = p).length = s.answers.length - 1 := by
      rw [List.length_eraseP]
      exact if_pos hvalid
    have hpos : 0 < s.answers.length := List.length_pos_of_ne_nil fun hnil => by simp [State.rspValid, hnil] at hvalid
    refine ⟨r, by rw [hown, hr]; rfl, ?_⟩
    rw [deliver_answers, hlength]
    omega
  · have hnone : ¬ s.rspValid p = true := by simp [hvalid]
    exact ⟨not_not.1 fun hne => hnone ((rspValid_iff s p).2 hne),
      List.eraseP_of_forall_not fun x hx hport => hnone (List.any_eq_true.2 ⟨x, hx, hport⟩)⟩
  · have hother : (deliver p { s with inputs := rest }).answersAt p' = s.answersAt p' :=
      (answersAt_deliver p' p _).trans (if_neg hp.symm)
    refine ⟨hother, Bool.eq_iff_iff.2 ?_⟩
    rw [rspValid_iff, rspValid_iff, hother]

/-! ## Offers -/

/-- A run begins with its first step. -/
theorem run_succ_of_step {M : Host.Core} {k : Nat} {s t : M.State} (h : M.step s = .next t) :
    M.run (k + 1) s = M.run k t := by
  simp only [Host.Core.run, h]

/-- In a ready block the last offered command is accepted, then executed and answered, then nothing more happens. -/
theorem last_offer_answered {m : State} {p : Port} {c : Command} (hi : m.inputs = [.command p c])
    (hready : m.cmdReady = true) :
    ∃ (u : State) (r : Response), exec (decode c) (accept p c { m with inputs := [] }) = .next u ∧ u.rsp = some r ∧
      core.run 2 m = .next (post p u) ∧ core.run 3 m = .next (post p u) ∧ (post p u).inputs = [] ∧
      (post p u).answersAt p = m.answersAt p ++ [r] := by
  obtain ⟨u, hu⟩ := exists_exec_next (decode c) (accept p c { m with inputs := [] })
  obtain ⟨r, hr, -⟩ := exec_response hu
  have hinputs : (post p u).inputs = [] := exec_inputs hu
  have haccept : core.step m = .next (accept p c { m with inputs := [] }) := step_of_offer_ready hi hready
  have hexec : core.step (accept p c { m with inputs := [] }) = .next (post p u) :=
    (step_of_no_input rfl).trans (work_of_next _ u ⟨p, c⟩ rfl hu)
  have hidle : core.step (post p u) = .next (post p u) := (step_of_no_input hinputs).trans (work_of_idle _ rfl)
  refine ⟨u, r, hu, hr, ?_, ?_, hinputs, ?_⟩
  · rw [run_succ_of_step haccept, run_succ_of_step hexec]
    rfl
  · rw [run_succ_of_step haccept, run_succ_of_step hexec, run_succ_of_step hidle]
    rfl
  · rw [exec_post_answersAt hu hr, if_pos rfl]
    rfl

/-- Settles O45: a block with nothing in flight is ready at once, any other after the step that executes what is. -/
theorem offeredCommandIsAnsweredInThreeSteps : Obligations.OfferedCommandIsAnsweredInThreeSteps := by
  intro s p c hs hi
  cases hq : s.inflight with
  | none =>
    have hbusy : s.busy = false := Bool.eq_false_iff.2 fun hb => by simpa [hq] using hs.busy_iff.1 hb
    obtain ⟨u, r, hu, hr, -, hrun, hinputs, hanswers⟩ := last_offer_answered hi (cmdReady_of_free hbusy hq)
    refine ⟨s, u, post p u, [], r, .inl ⟨rfl, rfl, rfl⟩, hu, hr, hrun, rfl, hinputs, rfl, ?_⟩
    rw [hanswers, List.append_nil]
  | some q =>
    obtain ⟨v, hv⟩ := exists_exec_next (decode q.command) s
    obtain ⟨x, hx, -⟩ := exec_response hv
    have hfirst : core.step s = .next (post q.port v) :=
      (step_of_offer_not_ready hi (cmdReady_of_inflight hq)).trans (work_of_next s v q hq hv)
    have hready : (post q.port v).cmdReady = true := cmdReady_of_free (exec_inflight_busy (t := v) hs hq hv) rfl
    obtain ⟨u, r, hu, hr, hrun, -, hinputs, hanswers⟩ :=
      last_offer_answered (m := post q.port v) ((exec_inputs (t := v) hv).trans hi) hready
    refine ⟨post q.port v, u, post p u, _, r, .inr ⟨q, v, x, rfl, hv, hx, rfl, rfl⟩, hu, hr, ?_, rfl, hinputs, rfl, ?_⟩
    · rw [run_succ_of_step hfirst, hrun]
    · rw [hanswers, exec_post_answersAt hv hx]

/-! ## Schedules of offers -/

/-- With a command in flight, the block works whatever is offered. -/
theorem step_of_offers {s : State} {q : Request} {requests : List Request} (hq : s.inflight = some q)
    (hi : s.inputs = offers requests) : step s = work s := by
  cases requests with
  | nil => exact step_of_no_input hi
  | cons q' rest => exact step_of_offer_not_ready hi (cmdReady_of_inflight hq)

/-- Executing a command atomically leaves an idle block idle. -/
theorem idle_post {c : Command} {s t : State} (hs : s.idle) (h : exec (decode c) s = .next t) (p : Port) :
    (post p t).idle := by
  obtain ⟨-, hbusy, -⟩ := hs
  exact ⟨rfl, by simp [exec_busy h, hbusy], rfl⟩

/-- In an idle block, accepting the offered command and executing it are the two steps of executing it atomically. -/
theorem run_two_of_offer {s t : State} {q : Request} {rest : List Request} (hs : s.idle)
    (h : exec (decode q.command) s = .next t) (k : Nat) :
    core.run (k + 2) { s with inputs := offers (q :: rest) } =
      core.run k { post q.port t with inputs := offers rest } := by
  obtain ⟨hinflight, hbusy, -⟩ := hs
  have hpost : post q.port (withControl (if buildsTables q.command = true then false else buildsTables q.command)
      (some q) (offers rest) t) = { post q.port t with inputs := offers rest } := by
    simp [withControl, post, exec_busy h, hbusy]
  have haccept : core.step { s with inputs := offers (q :: rest) } =
      .next (withControl (buildsTables q.command) (some q) (offers rest) s) :=
    step_of_offer_ready (s := { s with inputs := offers (q :: rest) }) rfl (cmdReady_of_free hbusy hinflight)
  have hexec : core.step (withControl (buildsTables q.command) (some q) (offers rest) s) =
      .next { post q.port t with inputs := offers rest } :=
    hpost ▸ (step_of_offers rfl rfl).trans (work_withControl h _ _)
  rw [run_succ_of_step haccept, run_succ_of_step hexec]

/-- Settles O47, by induction on the offers: two steps are one atomic command, which leaves the block idle. -/
theorem everyScheduleIsATotalOrder : Obligations.EveryScheduleIsATotalOrder := by
  intro requests
  induction requests with
  | nil =>
    intro s _ hinputs
    rw [offers, List.map_nil, ← hinputs]
    rfl
  | cons q rest ih =>
    intro s hs hinputs
    obtain ⟨t, ht⟩ := exists_exec_next (decode q.command) s
    rw [runAtomic, ht, List.length_cons, Nat.mul_add, run_two_of_offer hs ht]
    exact ih (post q.port t) (idle_post hs ht q.port) ((exec_inputs ht).trans hinputs)

end Sys2Proof.Proofs
end
